-- ==== Sys2Proof/Word.lean ====
section
/-! DEFINITION. The word types of FDEC: bytes, and the ten lanes of a frame (spec/20_memory.md R50, spec/00_scope.md R10). -/

namespace Sys2Proof

/-- An unsigned 8-bit frame byte (R10). -/
abbrev Byte := BitVec 8

/-- Ten like things, one for each frame index 0 to 9 (R10, R50). -/
structure Lanes (α : Type) where
  b0 : α
  b1 : α
  b2 : α
  b3 : α
  b4 : α
  b5 : α
  b6 : α
  b7 : α
  b8 : α
  b9 : α
  deriving DecidableEq, Repr, Inhabited

/-- A frame: the ten bytes `b[0]` to `b[9]` (R10). -/
abbrev Frame := Lanes Byte

/-- The levels on the ten byte lanes of `req_frame` at an edge: `none` is a lane that is not driven to defined, stable
levels (spec/70_reset_and_hazards.md R198). FDEC reads whole bytes only (R56), so one mark a byte is exact. -/
abbrev LaneLevels := Lanes (Option Byte)

end Sys2Proof
end

