-- ==== Sys2Proof/Config.lean ====
section
/-! DEFINITION. What is fixed for one FDEC (the two parameters of spec/00_scope.md R8) and the two free values: a tie's
draw and what the host drives. -/

namespace Sys2Proof

/-- `BATT_PCT_MODE` (R8, spec/42_battery.md R156): how the battery percentage rounds at the 20 tie inputs. -/
inductive BattPctMode where
  /-- `EXACT`: the FDEC hardware, the default. -/
  | exactForm
  /-- `DOC_BINARY64`: the source document's expression in IEEE binary64. -/
  | docBinary64
  /-- `TIE_DRAW`: at a tie, either neighbour. -/
  | tieDraw
  deriving DecidableEq, Repr

/-- The parameters of R8, each at its default. -/
structure Config where
  /-- `LEN_W`, the width of `req_len` and of `RSP_LEN`. -/
  lenW : Nat := 8
  /-- `BATT_PCT_MODE`. -/
  battPctMode : BattPctMode := .exactForm
  deriving DecidableEq, Repr

/-- What a host that keeps its duties (R107, R194) presents at one edge: defined control levels, the true byte count of
its frame and ten bytes. -/
structure HostDrive where
  rst : Bool
  reqValid : Bool
  count : Nat
  frame : Frame
  deriving DecidableEq, Repr, Inhabited

/-- FREE VALUE (R156, U2): under `TIE_DRAW`, whether the tie input `b[8]` takes the upper of its two values. A function of
the byte alone, DEDUCED from R27, R103 (d) and R108 (log 4). -/
opaque Config.tieDraw : Byte → Bool

/-- FREE VALUE: what the host drives at edge `k`, where `State.program` lists no edge (log 2). -/
opaque Config.hostDrive : Nat → HostDrive

end Sys2Proof
end

