-- ==== Sys2Proof/Syntax.lean ====
section
/-! DEFINITION. The operations of spec/30_encoding.md R79, one constructor for each row of spec/opcode_table.json, and
the levels on the input ports that select and feed them. -/

namespace Sys2Proof

/-- The input ports FDEC samples (R70). -/
inductive InPort where
  | rst
  | reqValid
  | reqLen
  | reqFrame
  deriving DecidableEq, Repr

/-- The levels on the input ports at one rising edge (R73). `none` is a port (or a byte lane) that is not driven to
defined, stable levels at the edge (R198). `reqLen` is the unsigned number on the `LEN_W` wires of `req_len`. -/
structure Edge where
  rst : Option Bool
  reqValid : Option Bool
  reqLen : Option Nat
  reqFrame : LaneLevels
  deriving DecidableEq, Repr

/-- Why an edge has no operation. -/
inductive EdgeError where
  /-- A port that FDEC reads at this edge carries an undefined level (R198, U7): the spec has a model refuse the edge. Safe. -/
  | undefinedInput (p : InPort)
  /-- `req_len` is given a number that `LEN_W` wires cannot carry: no such edge exists (R70, log 6). Safe. -/
  | lenTooWide
  deriving DecidableEq, Repr

/-- The operations (R79). The cycle operations are done one at each rising edge; the field operations are done inside a
DECODE, each on its own bytes of the frame (R59). -/
inductive Instr where
  /-- RESET (R105). -/
  | reset
  /-- DECODE (R103): the sampled `req_len` and the levels on the lanes of `req_frame`. -/
  | decode (len : Nat) (frame : LaneLevels)
  /-- IDLE (R104). -/
  | idle
  /-- OP_LENCHK (R120): the length check of `req_len`. -/
  | opLenchk (len : Nat)
  /-- OP_PREAMBLE (R121): `p = b[0]`. -/
  | opPreamble (p : Byte)
  /-- OP_STATUS (R122): `s = b[1]`. -/
  | opStatus (st : Byte)
  /-- OP_TEMP (R125): `b[2]` (low) and `b[3]` (high). -/
  | opTemp (lo hi : Byte)
  /-- OP_HUM (R126): `b[4]` (low) and `b[5]` (high). -/
  | opHum (lo hi : Byte)
  /-- OP_PRESS (R127): `b[6]` (low) and `b[7]` (high). -/
  | opPress (lo hi : Byte)
  /-- OP_VBAT (R150): `v = b[8]`. -/
  | opVbat (v : Byte)
  /-- OP_BATTPCT (R151): `v = b[8]`. -/
  | opBattpct (v : Byte)
  /-- OP_CRC (R128): `c = b[9]`. -/
  | opCrc (c : Byte)
  deriving DecidableEq, Repr

/-- A line of the spec's transaction notation (R83, R84): one clock edge, or a pseudo-transaction. -/
inductive Line where
  /-- `RESET`, with whatever request inputs are present and ignored. -/
  | reset (ignored : Edge)
  /-- `DECODE len=<n> <b0> … <b9>`; `none` for the length is the form with `len=` left out, `none` for a byte is `--`. -/
  | decode (len : Option Nat) (bytes : LaneLevels)
  /-- `IDLE`. -/
  | idle
  /-- `WAIT <k>`. -/
  | wait (k : Nat)
  deriving DecidableEq, Repr

end Sys2Proof
end

