-- ==== Sys2Proof/WellFormed.lean ====
section
/-! DEFINITION. What a configuration, and an operation under it, must satisfy. -/

namespace Sys2Proof

/-- `LEN_W ≥ 4`, so that the value 10 fits (spec/00_scope.md R8). -/
abbrev Config.wf (c : Config) : Prop := 4 ≤ c.lenW

/-- Every byte lane is driven to defined levels (R198). -/
def Lanes.driven (l : LaneLevels) : Bool :=
  l.b0.isSome && l.b1.isSome && l.b2.isSome && l.b3.isSome && l.b4.isSome &&
  l.b5.isSome && l.b6.isSome && l.b7.isSome && l.b8.isSome && l.b9.isSome

/-- An operation some edge can give: its length fits `LEN_W` wires (R70), and the lanes a DECODE reads, all ten when
`req_len ≥ 10` and none below (R61), are driven (R198). -/
def Instr.wf (c : Config) : Instr → Bool
  | .decode len frame => decide (len < 2 ^ c.lenW) && (decide (len < 10) || frame.driven)
  | .opLenchk len => decide (len < 2 ^ c.lenW)
  | .reset => true
  | .idle => true
  | .opPreamble _ => true
  | .opStatus _ => true
  | .opTemp _ _ => true
  | .opHum _ _ => true
  | .opPress _ _ => true
  | .opVbat _ => true
  | .opBattpct _ => true
  | .opCrc _ => true

end Sys2Proof
end

