-- ==== Sys2Proof/Decode.lean ====
section
/-! DEFINITION. Which operation an edge selects (spec/30_encoding.md R72), which field operations a DECODE does (R79), the
packing of a frame on `req_frame` (R71, R74), the request word that numbers an edge's bits (R73), and the encoders. -/

namespace Sys2Proof

/-! ### Lanes and the 80-bit bus -/

/-- The ten bytes, where every lane is driven. -/
def Lanes.bytes? (l : LaneLevels) : Option Frame :=
  match l.b0, l.b1, l.b2, l.b3, l.b4, l.b5, l.b6, l.b7, l.b8, l.b9 with
  | some b0, some b1, some b2, some b3, some b4, some b5, some b6, some b7, some b8, some b9 =>
    some ⟨b0, b1, b2, b3, b4, b5, b6, b7, b8, b9⟩
  | _, _, _, _, _, _, _, _, _, _ => none

/-- The lanes driven with a frame's bytes. -/
def Lanes.levels (f : Frame) : LaneLevels :=
  ⟨some f.b0, some f.b1, some f.b2, some f.b3, some f.b4, some f.b5, some f.b6, some f.b7, some f.b8, some f.b9⟩

/-- Ten lanes that carry the same thing. -/
def Lanes.all {α : Type} (x : α) : Lanes α := ⟨x, x, x, x, x, x, x, x, x, x⟩

/-- `req_frame[8*i+7 : 8*i] = b[i]`: byte 0 in the least significant bits (R71). -/
def Lanes.pack (f : Frame) : BitVec 80 :=
  f.b9 ++ f.b8 ++ f.b7 ++ f.b6 ++ f.b5 ++ f.b4 ++ f.b3 ++ f.b2 ++ f.b1 ++ f.b0

/-- The ten bytes of `req_frame`, each a slice of eight bits (R71, R74). -/
def unpackFrame (w : BitVec 80) : Frame where
  b0 := w.extractLsb' 0 8
  b1 := w.extractLsb' 8 8
  b2 := w.extractLsb' 16 8
  b3 := w.extractLsb' 24 8
  b4 := w.extractLsb' 32 8
  b5 := w.extractLsb' 40 8
  b6 := w.extractLsb' 48 8
  b7 := w.extractLsb' 56 8
  b8 := w.extractLsb' 64 8
  b9 := w.extractLsb' 72 8

/-- The bytes on the lanes with an undriven lane written as 00, as R83 shows a `--` byte. -/
def Lanes.shown (l : LaneLevels) : Frame where
  b0 := l.b0.getD 0
  b1 := l.b1.getD 0
  b2 := l.b2.getD 0
  b3 := l.b3.getD 0
  b4 := l.b4.getD 0
  b5 := l.b5.getD 0
  b6 := l.b6.getD 0
  b7 := l.b7.getD 0
  b8 := l.b8.getD 0
  b9 := l.b9.getD 0

/-! ### From an edge to its operations -/

/-- The cycle operation an edge does, chosen by `ctl = {rst, req_valid}` (R72). Only the ports FDEC reads at the edge must
carry defined levels (R198): `rst`; `req_valid` when `rst = 0`; `req_len` when `ctl = 0b01`; the lanes when, in addition,
`req_len ≥ 10` (R61, R73). -/
def decodeEdge (c : Config) (e : Edge) : Except EdgeError Instr :=
  match e.rst with
  | none => .error (.undefinedInput .rst)
  | some true => .ok .reset
  | some false =>
    match e.reqValid with
    | none => .error (.undefinedInput .reqValid)
    | some false => .ok .idle
    | some true =>
      match e.reqLen with
      | none => .error (.undefinedInput .reqLen)
      | some len =>
        if 2 ^ c.lenW ≤ len then .error .lenTooWide
        else if len < 10 || e.reqFrame.driven then .ok (.decode len e.reqFrame)
        else .error (.undefinedInput .reqFrame)

/-- The eight data field operations, each with its bytes of the frame (R59, R74, R79). -/
def dataOps (f : Frame) : List Instr :=
  [.opPreamble f.b0, .opStatus f.b1, .opTemp f.b2 f.b3, .opHum f.b4 f.b5, .opPress f.b6 f.b7, .opVbat f.b8,
    .opBattpct f.b8, .opCrc f.b9]

/-- The field operations a DECODE does: OP_LENCHK always, the eight data operations when `req_len ≥ 10` (R79). -/
def fieldOps (len : Nat) (l : LaneLevels) : List Instr :=
  .opLenchk len :: (if len < 10 then [] else match l.bytes? with
    | some f => dataOps f
    | none => [])

/-- Every operation done at an edge: its cycle operation, and with a DECODE its field operations (R79). -/
def edgeOps (c : Config) (e : Edge) : List Instr :=
  match decodeEdge c e with
  | .ok (.decode len l) => .decode len l :: fieldOps len l
  | .ok i => [i]
  | .error _ => []

/-! ### The request word -/

/-- The levels that a request word's bits put on the ports: `ctl` in bits 1 and 0, then `req_len` in `LEN_W` bits, then
`req_frame` in 80 bits. R73 gives the tuple's order and widths; the packing into one number is the model's (log 8). -/
def Edge.ofWord (c : Config) (w : Nat) : Edge where
  rst := some (w.testBit 1)
  reqValid := some (w.testBit 0)
  reqLen := some ((w >>> 2) % 2 ^ c.lenW)
  reqFrame := (unpackFrame (BitVec.ofNat 80 (w >>> (2 + c.lenW)))).levels

/-- The request word of an edge, an undriven input written as zeros (R73, R83; log 8). -/
def Edge.toWord (c : Config) (e : Edge) : Nat :=
  (e.reqValid.getD false).toNat + 2 * (e.rst.getD false).toNat + 4 * (e.reqLen.getD 0) +
    2 ^ (2 + c.lenW) * e.reqFrame.shown.pack.toNat

/-- The operation read from a table row's bits, under the default parameters (bit 0 is `ctl[0]`; log 8). -/
def decodeTableWord (nbits w : Nat) : Option Instr :=
  match decodeEdge {} (Edge.ofWord {} (w % 2 ^ nbits)) with
  | .ok i => some i
  | .error _ => none

/-! ### Encoders -/

/-- An edge that asks for a DECODE. -/
def requestEdge (len : Nat) (l : LaneLevels) : Edge where
  rst := some false
  reqValid := some true
  reqLen := some len
  reqFrame := l

/-- An edge at which the operation is done (R72, R74). A port that the operation does not read is left undriven. A field
operation has no bits that select it (R79), so its edge is a DECODE with its bytes in their lanes and every other lane 00
(log 12). -/
def encode : Instr → Edge
  | .reset => ⟨some true, none, none, Lanes.all none⟩
  | .decode len l => requestEdge len l
  | .idle => ⟨some false, some false, none, Lanes.all none⟩
  | .opLenchk len => requestEdge len (Lanes.all 0).levels
  | .opPreamble p => requestEdge 10 { Lanes.all 0 with b0 := p }.levels
  | .opStatus st => requestEdge 10 { Lanes.all 0 with b1 := st }.levels
  | .opTemp lo hi => requestEdge 10 { Lanes.all 0 with b2 := lo, b3 := hi }.levels
  | .opHum lo hi => requestEdge 10 { Lanes.all 0 with b4 := lo, b5 := hi }.levels
  | .opPress lo hi => requestEdge 10 { Lanes.all 0 with b6 := lo, b7 := hi }.levels
  | .opVbat v => requestEdge 10 { Lanes.all 0 with b8 := v }.levels
  | .opBattpct v => requestEdge 10 { Lanes.all 0 with b8 := v }.levels
  | .opCrc c => requestEdge 10 { Lanes.all 0 with b9 := c }.levels

/-- The operation's bits as one request word (R73; log 8). -/
def encodeWord (c : Config) (i : Instr) : Nat := (encode i).toWord c

/-! ### The host's side of the request format -/

/-- `req_len = min(n, 2^LEN_W - 1)` for a frame of `n` bytes (R82). -/
def hostLen (c : Config) (n : Nat) : Nat := min n (2 ^ c.lenW - 1)

/-- The levels of a host that keeps its duties (R107): all defined, the length saturated. -/
def HostDrive.edge (c : Config) (h : HostDrive) : Edge where
  rst := some h.rst
  reqValid := some h.reqValid
  reqLen := some (hostLen c h.count)
  reqFrame := h.frame.levels

/-- The edges a line of the transaction notation stands for (R83, R84). -/
def Line.edges : Line → List Edge
  | .reset ignored => [{ ignored with rst := some true }]
  | .decode len bytes => [requestEdge (len.getD 10) bytes]
  | .idle => [encode .idle]
  | .wait k => List.replicate k (encode .idle)

end Sys2Proof
end

