-- ==== Sys2Proof/Machine/State.lean ====
section
/-! DEFINITION. FDEC's state: the eleven registers of spec/10_state.md R22 and R23, the parameters of R8, and the model's
own account of resets and of the edges the host drives. -/

namespace Sys2Proof.Machine

/-- FDEC's whole state (R20): three response registers and eight result registers. -/
structure Regs where
  /-- `RSP_VALID` (R24). -/
  rspValid : BitVec 1
  /-- `RSP_CODE` (R25, R78). -/
  rspCode : BitVec 2
  /-- `RSP_LEN` (R26), a number below `2^LEN_W`. -/
  rspLen : Nat
  resPreamble : BitVec 8
  resStatus : BitVec 8
  /-- `RES_TEMP`, a two's-complement pattern. -/
  resTemp : BitVec 16
  resHum : BitVec 16
  resPress : BitVec 18
  resVbat : BitVec 9
  resCrc : BitVec 8
  resPct : BitVec 7
  deriving DecidableEq, Repr

/-- The machine. `regs` is FDEC's state; `cfg` is the two parameters, which no step changes (R8, log 6). The other three
fields are the model's own: `resetSeen` says whether a RESET edge has occurred (R192, log 3), `program` lists the levels the
host drives at the coming edges (R109, log 1), and `edgeNo` numbers the coming edge (log 2). -/
structure State where
  cfg : Config
  regs : Regs
  resetSeen : Bool
  program : List Edge
  edgeNo : Nat
  deriving DecidableEq, Repr

/-- The machine right after a RESET edge: every register at the value of spec/70_reset_and_hazards.md R191, the parameters
at their defaults (R8), and no edge listed (log 2). -/
def State.reset : State where
  cfg := {}
  regs :=
    { rspValid := 0, rspCode := 0b00, rspLen := 0, resPreamble := 0x00, resStatus := 0x00, resTemp := 0x0000,
      resHum := 0x0000, resPress := 0x00000, resVbat := 0x000, resCrc := 0x00, resPct := 0x00 }
  resetSeen := true
  program := []
  edgeNo := 0

/-- The machine after power-up, or after a loss of supply (R184), and before the first RESET edge: any register contents
(R192). -/
def State.powerUp (c : Config) (contents : Regs) (program : List Edge) : State where
  cfg := c
  regs := contents
  resetSeen := false
  program := program
  edgeNo := 0

/-- A read of an output that the spec says gives no value. `Sys2Proof.Machine.hostRead` raises them, for the host's read of
an output port; a step never does, since FDEC never stops (R109). Each is safe: a claim cannot rest on the value read. -/
inductive Fault where
  /-- A register read before the first RESET edge (R192, U5). Raised by `hostRead`. Safe. -/
  | readBeforeReset
  /-- A register read while `RSP_CODE = 0b11`, which the hardware never reaches after a reset (R78, U4). Raised by
  `hostRead`. Safe. -/
  | reservedCode
  /-- A `RES_*` register read while `RSP_CODE ≠ 0b01`: it holds no measurement (R31, R199, U6). Raised by `hostRead`. Safe. -/
  | noMeasurement
  deriving DecidableEq, Repr

/-- An edge or an operation without a meaning. -/
inductive Refusal where
  /-- An operation whose meaning is still to be written, named as spec/opcode_table.json names it. Raised by `exec`. Safe. -/
  | notModelled (mnemonic : String)
  /-- An edge that selects no operation: a bit FDEC reads is undefined there (R198, U7), or the length fits no `LEN_W` wires
  (log 6). Raised by `step`, and by DECODE's meaning for lanes it reads. Safe. -/
  | badEdge (e : EdgeError)
  deriving DecidableEq, Repr

end Sys2Proof.Machine
end

