-- ==== Sys2Proof/Machine/Operands.lean ====
section
/-! DEFINITION. How each field operation builds its operand and its code (spec/30_encoding.md R76): the unpacker and the sign
extender of spec/41_field_decode.md, the offsets, and the battery percentage of spec/42_battery.md, on the integers and in
integer arithmetic (spec/00_scope.md R11). -/

namespace Sys2Proof.Machine

/-- `FrameByte(i) = b[i]` (R52), the one read FDEC makes. -/
def frameByte (f : Frame) (i : Fin 10) : Byte :=
  match i with
  | 0 => f.b0
  | 1 => f.b1
  | 2 => f.b2
  | 3 => f.b3
  | 4 => f.b4
  | 5 => f.b5
  | 6 => f.b6
  | 7 => f.b7
  | 8 => f.b8
  | 9 => f.b9

/-- `le16(lo, hi) = lo | (hi << 8)`, the little-endian unpacker (R123). -/
def le16 (lo hi : Byte) : BitVec 16 := lo.setWidth 16 ||| (hi.setWidth 16 <<< 8)

/-- `sext_16(r)`: subtract `0x10000` when bit 15 is set (R12, R124). -/
def sext16 (r : BitVec 16) : Int := if r.getLsbD 15 then (r.toNat : Int) - 0x10000 else r.toNat

/-- The temperature code `T = sext_16(le16(b[2], b[3]))` (R125). -/
def tempCode (lo hi : Byte) : Int := sext16 (le16 lo hi)

/-- The humidity code `H = le16(b[4], b[5])`, no sign extension (R126). -/
def humCode (lo hi : Byte) : Nat := (le16 lo hi).toNat

/-- The pressure code `P = le16(b[6], b[7]) + 80000` (R127). -/
def pressCode (lo hi : Byte) : Nat := (le16 lo hi).toNat + 80000

/-- The battery voltage code `V = 200 + b[8]` (R150). -/
def vbatCode (v : Byte) : Nat := 200 + v.toNat

/-- The percentage of the voltage code in integers, as the hardware computes it (R154). -/
def battPctInt (V : Nat) : Nat :=
  let d : Int := (min V 410 : Nat) - 250
  if d ≤ 0 then 0 else (5 * d + 4).toNat >>> 3

/-- The byte is one of the 20 tie inputs 54, 62, …, 206 (R155). -/
def isTie (v : Byte) : Bool := 54 ≤ v.toNat && v.toNat ≤ 206 && (v.toNat - 54) % 8 == 0

/-- The percentage code of `b[8]` in each `BATT_PCT_MODE` (R156). The modes differ at tie inputs alone: at
`b[8] = 54 + 8k` the exact value is `5k + 3`, the document's binary64 expression gives one less at 78 and 86, and a draw
gives `5k + 3` or `5k + 2`. -/
def battPct (mode : BattPctMode) (v : Byte) : Nat :=
  match mode with
  | .exactForm => battPctInt (vbatCode v)
  | .docBinary64 => if v = 78 then 17 else if v = 86 then 22 else battPctInt (vbatCode v)
  | .tieDraw =>
    if isTie v then
      let k := (v.toNat - 54) / 8
      if Config.tieDraw v then 5 * k + 3 else 5 * k + 2
    else battPctInt (vbatCode v)

end Sys2Proof.Machine
end

