-- ==== Sys2Proof/Machine/Ops.lean ====
section
/-! DEFINITION. The named operations on registers, the sampling of an edge, the failure output that every short request
takes (spec/60_exceptions.md R172), and the host's read of an output port (spec/30_encoding.md R70). -/

namespace Sys2Proof.Machine

/-! ### Writing one register (`reg <- v`, spec/00_scope.md R12) -/

def State.setRspValid (s : State) (v : BitVec 1) : State := { s with regs := { s.regs with rspValid := v } }
def State.setRspCode (s : State) (v : BitVec 2) : State := { s with regs := { s.regs with rspCode := v } }
def State.setRspLen (s : State) (v : Nat) : State := { s with regs := { s.regs with rspLen := v } }
def State.setResPreamble (s : State) (v : BitVec 8) : State := { s with regs := { s.regs with resPreamble := v } }
def State.setResStatus (s : State) (v : BitVec 8) : State := { s with regs := { s.regs with resStatus := v } }
def State.setResTemp (s : State) (v : BitVec 16) : State := { s with regs := { s.regs with resTemp := v } }
def State.setResHum (s : State) (v : BitVec 16) : State := { s with regs := { s.regs with resHum := v } }
def State.setResPress (s : State) (v : BitVec 18) : State := { s with regs := { s.regs with resPress := v } }
def State.setResVbat (s : State) (v : BitVec 9) : State := { s with regs := { s.regs with resVbat := v } }
def State.setResCrc (s : State) (v : BitVec 8) : State := { s with regs := { s.regs with resCrc := v } }
def State.setResPct (s : State) (v : BitVec 7) : State := { s with regs := { s.regs with resPct := v } }

/-! ### Writing all registers at once -/

/-- Every register at its reset value (R105, R191). -/
def resetRegs : Regs where
  rspValid := 0
  rspCode := 0b00
  rspLen := 0
  resPreamble := 0
  resStatus := 0
  resTemp := 0
  resHum := 0
  resPress := 0
  resVbat := 0
  resCrc := 0
  resPct := 0

/-- A RESET edge (R105): the reset state, and from now on the registers hold values (R192). -/
def State.doReset (s : State) : State := { s with regs := resetRegs, resetSeen := true }

/-- FDEC's one exception, InsufficientInput (R170), is no trap (R176): it is this register output, which keeps nothing of
the failed request but its length and nothing of an earlier one (R172). -/
def failureRegs (got : Nat) : Regs where
  rspValid := 1
  rspCode := 0b10
  rspLen := got
  resPreamble := 0
  resStatus := 0
  resTemp := 0
  resHum := 0
  resPress := 0
  resVbat := 0
  resCrc := 0
  resPct := 0

/-- `raise InsufficientInput(got)` (R12, R170, R172). The next accepting edge replaces it: there is no return (R177). -/
def State.raiseInsufficientInput (s : State) (got : Nat) : State := { s with regs := failureRegs got }

/-! ### The edges the host drives -/

/-- The levels at the coming edge: the first listed edge, or, with none listed, whatever the host drives (log 1, log 2). -/
def State.sample (s : State) : Edge :=
  match s.program with
  | e :: _ => e
  | [] => (Config.hostDrive s.edgeNo).edge s.cfg

/-- Past the coming edge: its listing is used up and the edges are counted. No register changes (R102). -/
def State.pastEdge (s : State) : State := { s with program := s.program.tail, edgeNo := s.edgeNo + 1 }

/-- The machine with the levels of its coming edge fixed. -/
def State.withEdge (s : State) (e : Edge) : State := { s with program := e :: s.program.tail }

/-! ### The outputs -/

/-- The output ports (R70). -/
inductive OutPort where
  | reqReady
  | rspValid
  | rspCode
  | rspLen
  | rspWarn
  | resPreamble
  | resStatus
  | resTemp
  | resHum
  | resPress
  | resVbat
  | resCrc
  | resPct
  deriving DecidableEq, Repr

/-- A port's width in bits (R70). -/
def OutPort.width (c : Config) : OutPort → Nat
  | .reqReady => 1
  | .rspValid => 1
  | .rspCode => 2
  | .rspLen => c.lenW
  | .rspWarn => 1
  | .resPreamble => 8
  | .resStatus => 8
  | .resTemp => 16
  | .resHum => 16
  | .resPress => 18
  | .resVbat => 9
  | .resCrc => 8
  | .resPct => 7

/-- The name of the source's output field that a port carries, where it carries one (R85). -/
def OutPort.fieldName : OutPort → Option String
  | .reqReady => none
  | .rspValid => none
  | .rspCode => some "errors"
  | .rspLen => some "errors"
  | .rspWarn => some "warnings"
  | .resPreamble => some "data.preamble"
  | .resStatus => some "data.status"
  | .resTemp => some "data.temperature"
  | .resHum => some "data.humidity"
  | .resPress => some "data.pressure"
  | .resVbat => some "data.batteryVoltage"
  | .resCrc => some "data.crc8le"
  | .resPct => some "data.batteryPercentage"

/-- The port drives a `RES_*` register (R22). -/
def OutPort.isResult : OutPort → Bool
  | .reqReady => false
  | .rspValid => false
  | .rspCode => false
  | .rspLen => false
  | .rspWarn => false
  | .resPreamble => true
  | .resStatus => true
  | .resTemp => true
  | .resHum => true
  | .resPress => true
  | .resVbat => true
  | .resCrc => true
  | .resPct => true

/-- The port is a constant, no register: `req_ready = 1` and `rsp_warn = 0` (R20, R28, R185). -/
def OutPort.isConstant : OutPort → Bool
  | .reqReady => true
  | .rspValid => false
  | .rspCode => false
  | .rspLen => false
  | .rspWarn => true
  | .resPreamble => false
  | .resStatus => false
  | .resTemp => false
  | .resHum => false
  | .resPress => false
  | .resVbat => false
  | .resCrc => false
  | .resPct => false

/-- The unsigned number the hardware drives on a port, straight from its register (R70). -/
def portLevel (s : State) : OutPort → Nat
  | .reqReady => 1
  | .rspValid => s.regs.rspValid.toNat
  | .rspCode => s.regs.rspCode.toNat
  | .rspLen => s.regs.rspLen
  | .rspWarn => 0
  | .resPreamble => s.regs.resPreamble.toNat
  | .resStatus => s.regs.resStatus.toNat
  | .resTemp => s.regs.resTemp.toNat
  | .resHum => s.regs.resHum.toNat
  | .resPress => s.regs.resPress.toNat
  | .resVbat => s.regs.resVbat.toNat
  | .resCrc => s.regs.resCrc.toNat
  | .resPct => s.regs.resPct.toNat

/-- The host's read of a port (R107): it changes nothing, and it gives a value only where the spec says there is one. Before
the first RESET edge a register has none (R192); at `RSP_CODE = 0b11` the machine is none the hardware reaches (R78, log 11);
and a `RES_*` register means something only while `RSP_CODE = 0b01` (R31, R199). -/
def hostRead (s : State) (p : OutPort) : Except Fault Nat :=
  if p.isConstant then .ok (portLevel s p)
  else if !s.resetSeen then .error .readBeforeReset
  else if s.regs.rspCode = 0b11 then .error .reservedCode
  else if p.isResult && s.regs.rspCode != 0b01 then .error .noMeasurement
  else .ok (portLevel s p)

/-- The temperature code a host reads: `RES_TEMP` as two's complement (R22, R124). -/
def hostReadTemperature (s : State) : Except Fault Int :=
  match hostRead s .resTemp with
  | .ok _ => .ok s.regs.resTemp.toInt
  | .error f => .error f

end Sys2Proof.Machine
end

