-- ==== Sys2Proof/Machine/Battery.lean ====
section
/-! DEFINITION. The battery operations of spec/42_battery.md; both read byte 8. -/

namespace Sys2Proof.Machine

/-- OP_VBAT (R150): `RES_VBAT <- V`. -/
def execOpVbat (v : Byte) (s : State) : Host.Outcome State Fault Refusal :=
  .next (s.setResVbat (BitVec.ofNat 9 (vbatCode v)))

/-- OP_BATTPCT (R151): `RES_PCT <- p`, in the mode of the machine (R156). -/
def execOpBattpct (v : Byte) (s : State) : Host.Outcome State Fault Refusal :=
  .next (s.setResPct (BitVec.ofNat 7 (battPct s.cfg.battPctMode v)))

end Sys2Proof.Machine
end

