-- ==== Sys2Proof/Machine/Flags.lean ====
section
/-! DEFINITION. FDEC has no arithmetic flags (spec/10_state.md R29). Its conditions are the length check, the kind of the
last result in `RSP_CODE` (spec/30_encoding.md R78) and the `RSP_VALID` pulse (R24). -/

namespace Sys2Proof.Machine

/-- `ok := (req_len ≥ 10)` (spec/41_field_decode.md R120). -/
def lenOk (len : Nat) : Bool := 10 ≤ len

/-- The encodings of `RSP_CODE` (R78). -/
def codeNone : BitVec 2 := 0b00
def codeOk : BitVec 2 := 0b01
def codeInsufficient : BitVec 2 := 0b10

/-- `RSP_CODE` after a length check: OK or ERR_INSUFFICIENT (R120, R170). -/
def lenCode (len : Nat) : BitVec 2 := if lenOk len then codeOk else codeInsufficient

end Sys2Proof.Machine
end

