-- ==== Sys2Proof/Machine/Cycle.lean ====
section
/-! DEFINITION. The cycle operations RESET, DECODE and IDLE (spec/40_transactions.md R103 to R105). -/

namespace Sys2Proof.Machine

/-- The eight fields of a successful decode, integer codes in hundredths where the field is scaled (R101, R13). -/
structure Measurement where
  preamble : Byte
  status : Byte
  temperature : Int
  humidity : Nat
  pressure : Nat
  batteryVoltage : Nat
  crc8le : Byte
  batteryPercentage : Nat
  deriving DecidableEq, Repr

/-- What the decoding function gives (R2, R101): one of the two, never both. The warnings of a success are always the empty
sequence, so they carry nothing (R28, R185). -/
inductive DecodeResult where
  | success (f : Measurement)
  | failure (got : Nat)
  deriving DecidableEq, Repr

/-- The record of a frame of sufficient length (R101, steps 2 to 10). -/
def measureFrame (mode : BattPctMode) (b : Frame) : Measurement where
  preamble := frameByte b 0
  status := frameByte b 1
  temperature := tempCode (frameByte b 2) (frameByte b 3)
  humidity := humCode (frameByte b 4) (frameByte b 5)
  pressure := pressCode (frameByte b 6) (frameByte b 7)
  batteryVoltage := vbatCode (frameByte b 8)
  crc8le := frameByte b 9
  batteryPercentage := battPct mode (frameByte b 8)

/-- The decoding function of the byte count and the ten bytes (R101), in the mode's percentage (R156). -/
def decodeFrame (mode : BattPctMode) (len : Nat) (b : Frame) : DecodeResult :=
  if lenOk len then .success (measureFrame mode b) else .failure len

/-- The registers after an accepting edge whose request succeeds (R103). -/
def successRegs (len : Nat) (f : Measurement) : Regs where
  rspValid := 1
  rspCode := codeOk
  rspLen := len
  resPreamble := f.preamble
  resStatus := f.status
  resTemp := BitVec.ofInt 16 f.temperature
  resHum := BitVec.ofNat 16 f.humidity
  resPress := BitVec.ofNat 18 f.pressure
  resVbat := BitVec.ofNat 9 f.batteryVoltage
  resCrc := f.crc8le
  resPct := BitVec.ofNat 7 f.batteryPercentage

/-- A result latched at the accepting edge (R103): every register is written, so nothing of an earlier request stays. -/
def State.latch (s : State) (len : Nat) : DecodeResult → State
  | .success f => { s with regs := successRegs len f }
  | .failure got => s.raiseInsufficientInput got

/-- RESET (R105): every register to its reset value, from any state; a request at the edge is dropped (R197). -/
def execReset (s : State) : Host.Outcome State Fault Refusal := .next s.doReset

/-- DECODE (R103): latch the result of the sampled request. With `req_len < 10` no lane is read (R61); otherwise all ten
are, and an undefined one has the edge refused (R198). -/
def execDecode (len : Nat) (frame : LaneLevels) (s : State) : Host.Outcome State Fault Refusal :=
  if lenOk len then
    match frame.bytes? with
    | some b => .next (s.latch len (decodeFrame s.cfg.battPctMode len b))
    | none => .refused (.badEdge (.undefinedInput .reqFrame))
  else .next (s.latch len (.failure len))

/-- IDLE (R104): `RSP_VALID <- 0`, and every other register keeps its value. -/
def execIdle (s : State) : Host.Outcome State Fault Refusal := .next (s.setRspValid 0)

end Sys2Proof.Machine
end

