-- ==== Sys2Proof/Machine/Fields.lean ====
section
/-! DEFINITION. The field operations of spec/41_field_decode.md: the length check, the verbatim bytes and the 16-bit fields.
Each writes the registers the table of spec/30_encoding.md R79 gives it and no other (log 9). -/

namespace Sys2Proof.Machine

/-- OP_LENCHK (R120): `RSP_LEN <- req_len`, and `RSP_CODE` says whether at least 10 bytes came. -/
def execOpLenchk (len : Nat) (s : State) : Host.Outcome State Fault Refusal :=
  .next ((s.setRspLen len).setRspCode (lenCode len))

/-- OP_PREAMBLE (R121): byte 0, verbatim. -/
def execOpPreamble (p : Byte) (s : State) : Host.Outcome State Fault Refusal := .next (s.setResPreamble p)

/-- OP_STATUS (R122): byte 1, verbatim; it sets no flag. -/
def execOpStatus (st : Byte) (s : State) : Host.Outcome State Fault Refusal := .next (s.setResStatus st)

/-- OP_TEMP (R125): `RES_TEMP <- T mod 2^16`. -/
def execOpTemp (lo hi : Byte) (s : State) : Host.Outcome State Fault Refusal :=
  .next (s.setResTemp (BitVec.ofInt 16 (tempCode lo hi)))

/-- OP_HUM (R126): `RES_HUM <- H`. -/
def execOpHum (lo hi : Byte) (s : State) : Host.Outcome State Fault Refusal :=
  .next (s.setResHum (BitVec.ofNat 16 (humCode lo hi)))

/-- OP_PRESS (R127): `RES_PRESS <- P`. -/
def execOpPress (lo hi : Byte) (s : State) : Host.Outcome State Fault Refusal :=
  .next (s.setResPress (BitVec.ofNat 18 (pressCode lo hi)))

/-- OP_CRC (R128): byte 9, verbatim and unchecked. -/
def execOpCrc (c : Byte) (s : State) : Host.Outcome State Fault Refusal := .next (s.setResCrc c)

end Sys2Proof.Machine
end

