-- ==== Sys2Proof/Machine/Dispatch.lean ====
section
/-! DEFINITION. One arm for each operation of spec/opcode_table.json. -/

namespace Sys2Proof.Machine

def exec (i : Instr) (s : State) : Host.Outcome State Fault Refusal :=
  match i with
  | .reset => Sys2Proof.Machine.execReset s
  | .decode len frame => Sys2Proof.Machine.execDecode len frame s
  | .idle => Sys2Proof.Machine.execIdle s
  | .opLenchk len => Sys2Proof.Machine.execOpLenchk len s
  | .opPreamble p => Sys2Proof.Machine.execOpPreamble p s
  | .opStatus st => Sys2Proof.Machine.execOpStatus st s
  | .opTemp lo hi => Sys2Proof.Machine.execOpTemp lo hi s
  | .opHum lo hi => Sys2Proof.Machine.execOpHum lo hi s
  | .opPress lo hi => Sys2Proof.Machine.execOpPress lo hi s
  | .opVbat v => Sys2Proof.Machine.execOpVbat v s
  | .opBattpct v => Sys2Proof.Machine.execOpBattpct v s
  | .opCrc c => Sys2Proof.Machine.execOpCrc c s

end Sys2Proof.Machine
end

