-- ==== Sys2Proof/Machine/Step.lean ====
section
/-! DEFINITION. One step is one rising edge of `clk` (spec/40_transactions.md R102): sample the inputs, and do the one
operation they select. -/

namespace Sys2Proof.Machine

/-- One rising edge. FDEC does exactly one of RESET, DECODE and IDLE (R102); an edge with an undefined read bit is refused
(spec/70_reset_and_hazards.md R198). -/
def step (s : State) : Host.Outcome State Fault Refusal :=
  match decodeEdge s.cfg s.sample with
  | .ok i => exec i s.pastEdge
  | .error e => .refused (.badEdge e)

/-- The machine with a request word's levels at its coming edge, so that the next step does that operation (log 8). -/
def State.withFetchWord (s : State) (nbits w : Nat) : State := s.withEdge (Edge.ofWord s.cfg (w % 2 ^ nbits))

end Sys2Proof.Machine
end

