-- ==== Sys2Proof/Machine/Binary64.lean ====
section
/-! DEFINITION. The source document's percentage expressions in IEEE 754 binary64, which spec/42_battery.md R156 evaluates for the
mode `DOC_BINARY64`. PRESUMED: binary64 is general knowledge (spec/93_implementation_defined.md G1, G3), not the document's
(log 5). No step uses this file: the machine takes R156's stated results, and a claim says that they are these. -/

namespace Sys2Proof.Machine

/-- The number `m * 2^e`. -/
structure Dyadic where
  m : Int
  e : Int
  deriving DecidableEq, Repr

/-- `a / d`, for `d > 0`, rounded to 53 significant bits, a half to even. Every value here lies in binary64's normal range. -/
def roundQuotient (n : Int) (d : Nat) : Dyadic :=
  let a := n.natAbs
  if a = 0 then ⟨0, 0⟩
  else
    let g : Int := (a.log2 : Int) - d.log2 - 53
    let num (e : Int) : Nat := a * 2 ^ (-e).toNat
    let den (e : Int) : Nat := d * 2 ^ e.toNat
    let e := if num g / den g < 2 ^ 53 then g else g + 1
    let q := num e / den e
    let r := num e % den e
    let q' := if 2 * r > den e || (2 * r == den e && q % 2 == 1) then q + 1 else q
    ⟨n.sign * q', e⟩

/-- `m * 2^e`, rounded. -/
def roundDyadic (m e : Int) : Dyadic := roundQuotient (m * 2 ^ e.toNat) (2 ^ (-e).toNat)

namespace Dyadic

def ofNat (n : Nat) : Dyadic := ⟨n, 0⟩

/-- Both numbers' mantissas at the smaller exponent. -/
def aligned (x y : Dyadic) : Int × Int × Int :=
  let e := min x.e y.e
  (x.m * 2 ^ (x.e - e).toNat, y.m * 2 ^ (y.e - e).toNat, e)

def add (x y : Dyadic) : Dyadic :=
  let a := aligned x y
  roundDyadic (a.1 + a.2.1) a.2.2

def sub (x y : Dyadic) : Dyadic := add x ⟨-y.m, y.e⟩

def mul (x y : Dyadic) : Dyadic := roundDyadic (x.m * y.m) (x.e + y.e)

/-- The quotient, for a positive divisor. -/
def div (x y : Dyadic) : Dyadic :=
  let e := x.e - y.e
  roundQuotient (x.m * 2 ^ e.toNat) (y.m.toNat * 2 ^ (-e).toNat)

def lower (x y : Dyadic) : Dyadic :=
  let a := aligned x y
  if a.1 ≤ a.2.1 then x else y

def floor (x : Dyadic) : Int := x.m * 2 ^ x.e.toNat / 2 ^ (-x.e).toNat

end Dyadic

/-- The literals 4.1, 2.5, 1.6, 0.5 and 100.0. -/
def lit41 : Dyadic := roundQuotient 41 10
def lit25 : Dyadic := roundQuotient 25 10
def lit16 : Dyadic := roundQuotient 16 10
def lit05 : Dyadic := roundQuotient 1 2
def lit100 : Dyadic := .ofNat 100

/-- `min((200.0 + b[8]) / 100.0, 4.1)`. -/
def clamped64 (v : Byte) : Dyadic := (((Dyadic.ofNat 200).add (.ofNat v.toNat)).div lit100).lower lit41

/-- `floor(x + 0.5)`, then the lower clamp. -/
def finish64 (x : Dyadic) : Nat := (x.add lit05).floor.toNat

/-- `(cv - 2.5) / (4.1 - 2.5) * 100.0`, step 10's form. -/
def docPct64 (v : Byte) : Nat := finish64 ((((clamped64 v).sub lit25).div (lit41.sub lit25)).mul lit100)

/-- `(cv - 2.5) / 1.6 * 100`, the worked example's form (R156, 90_conflicts C6). -/
def examplePct64 (v : Byte) : Nat := finish64 ((((clamped64 v).sub lit25).div lit16).mul lit100)

/-- `(cv - 2.5) * 100 / (4.1 - 2.5)`, the third form R156 evaluates. -/
def reorderedPct64 (v : Byte) : Nat := finish64 ((((clamped64 v).sub lit25).mul lit100).div (lit41.sub lit25))

end Sys2Proof.Machine
end

