-- ==== Sys2Proof/Machine/Exact.lean ====
section
/-! DEFINITION. The decoding function as spec/40_transactions.md R101 and spec/42_battery.md R151 write it, on integers and exact
rationals: the clear form that the machine's integer form is held to. No step uses it. -/

namespace Sys2Proof.Machine

/-- The rational a code of hundredths stands for (R13). -/
def hundredths (c : Int) : ℚ := c / 100

/-- `round_ha(x)`: to the nearest integer, a half away from zero (R152). -/
def roundHa (x : ℚ) : Int := if 0 ≤ x then ⌊x + 1 / 2⌋ else -⌊-x + 1 / 2⌋

/-- The exact percentage before rounding: the voltage clamped above at 4.1 V, then the formula (R151, R153). -/
def exactPercentage (V : Nat) : ℚ :=
  let cv := min (hundredths V) (41 / 10)
  (cv - 5 / 2) / (41 / 10 - 5 / 2) * 100

/-- `BattPct(V)`: rounded, then clamped below at 0 (R151). -/
def battPctExact (V : Nat) : Int :=
  let p := roundHa (exactPercentage V)
  if p < 0 then 0 else p

/-- `lo + 256*hi` (R12, R123). -/
def pairValue (lo hi : Byte) : Nat := lo.toNat + 256 * hi.toNat

/-- The record of a frame (R101), with the percentage of R151. -/
def measureExact (b : Frame) : Measurement where
  preamble := b.b0
  status := b.b1
  temperature := if 128 ≤ b.b3.toNat then (pairValue b.b2 b.b3 : Int) - 65536 else pairValue b.b2 b.b3
  humidity := pairValue b.b4 b.b5
  pressure := pairValue b.b6 b.b7 + 80000
  batteryVoltage := 200 + b.b8.toNat
  crc8le := b.b9
  batteryPercentage := (battPctExact (200 + b.b8.toNat)).toNat

/-- `Decode(len, b)` (R101). -/
def decodeExact (len : Nat) (b : Frame) : DecodeResult :=
  if len < 10 then .failure len else .success (measureExact b)

/-- What a host reads of a result, port by port (R77, R31): the record on success, and on failure the kind and the count. -/
def hostSees (t : State) : DecodeResult → Prop
  | .success f =>
    hostRead t .rspValid = .ok 1 ∧ hostRead t .rspCode = .ok 1 ∧ hostRead t .resPreamble = .ok f.preamble.toNat ∧
    hostRead t .resStatus = .ok f.status.toNat ∧ hostReadTemperature t = .ok f.temperature ∧
    hostRead t .resHum = .ok f.humidity ∧ hostRead t .resPress = .ok f.pressure ∧
    hostRead t .resVbat = .ok f.batteryVoltage ∧ hostRead t .resCrc = .ok f.crc8le.toNat ∧
    hostRead t .resPct = .ok f.batteryPercentage
  | .failure got =>
    hostRead t .rspValid = .ok 1 ∧ hostRead t .rspCode = .ok 2 ∧ hostRead t .rspLen = .ok got ∧
    ∀ p : OutPort, p.isResult = true → hostRead t p = .error .noMeasurement

end Sys2Proof.Machine
end

