-- ==== Sys2Proof/Safety.lean ====
section
/-! DEFINITION. The terms claims use: the invariant of the machine, the inputs FDEC reads at an edge, and field operations done
in a row. -/

namespace Sys2Proof

/-- The two edges carry the same levels on every input that FDEC reads at the first (R72, R61, R73). -/
def Edge.sameRead (e e' : Edge) : Prop :=
  e.rst = e'.rst ∧
  (e.rst = some false → e.reqValid = e'.reqValid ∧
    (e.reqValid = some true → e.reqLen = e'.reqLen ∧
      (∀ n, e.reqLen = some n → 10 ≤ n → e.reqFrame = e'.reqFrame)))

/-- FDEC reads the port at the edge, given the levels it has read before it (R72, R61, R198). -/
def Edge.reads (e : Edge) : InPort → Prop
  | .rst => True
  | .reqValid => e.rst = some false
  | .reqLen => e.rst = some false ∧ e.reqValid = some true
  | .reqFrame => e.rst = some false ∧ e.reqValid = some true ∧ ∃ n, e.reqLen = some n ∧ 10 ≤ n

/-- The port carries a defined level on every bit. -/
def Edge.defined (e : Edge) : InPort → Prop
  | .rst => e.rst.isSome = true
  | .reqValid => e.reqValid.isSome = true
  | .reqLen => e.reqLen.isSome = true
  | .reqFrame => e.reqFrame.driven = true

/-- An edge of a host that keeps its duties (R107, R198): every input FDEC reads is defined, and the length fits its wires. -/
def Edge.dutiful (c : Config) (e : Edge) : Prop :=
  (∀ p, e.reads p → e.defined p) ∧ ∀ n, e.reqLen = some n → n < 2 ^ c.lenW

end Sys2Proof

namespace Sys2Proof.Machine

/-- What the registers hold after a reset: nothing yet, or the whole failure or the whole success of ONE request, and never
`RSP_CODE = 0b11` (R25, R63, R171, R172). -/
def Regs.legal (c : Config) (r : Regs) : Prop :=
  r = resetRegs ∨
  (∃ (v : BitVec 1) (n : Nat), n < 10 ∧ r = { failureRegs n with rspValid := v }) ∨
  ∃ (v : BitVec 1) (n : Nat) (b : Frame),
    10 ≤ n ∧ r = { successRegs n (measureFrame c.battPctMode b) with rspValid := v }

/-- The invariant: `LEN_W ≥ 4` (R8), `RSP_LEN` fits its `LEN_W` bits (R23), and once a RESET edge has occurred the registers
are legal. -/
def State.Inv (s : State) : Prop :=
  s.cfg.wf ∧ s.regs.rspLen < 2 ^ s.cfg.lenW ∧ (s.resetSeen = true → s.regs.legal s.cfg)

/-- Operations done one after the other; stops at the first that gives no next state. -/
def execAll : List Instr → State → Host.Outcome State Fault Refusal
  | [], s => .next s
  | i :: rest, s =>
    match exec i s with
    | .next t => execAll rest t
    | .fault f => .fault f
    | .refused r => .refused r

/-- The exact percentage before the clamp lies halfway between two integers (R155). -/
def halfway (v : Byte) : Prop := ∃ k : Int, exactPercentage (vbatCode v) = k + 1 / 2

end Sys2Proof.Machine
end

