-- ==== Sys2Proof/Certificates/Slice0/Obligations.lean ====
section
/-! DEFINITION. The statements for the provers, taken from the numbered rules of spec/. A statement about register contents takes
as its premise that a RESET edge has occurred, as spec/70_reset_and_hazards.md R192 asks of every claim; a statement about RESET
itself needs none. -/

open Sys2Proof Sys2Proof.Machine

/-! ### The cycle operations -/

/-- R105: from any state, and whatever the other inputs carry, RESET puts every register at its reset value. -/
def Obligations.ResetClearsEveryRegister : Prop :=
  let cleared : Regs :=
    { rspValid := 0, rspCode := 0b00, rspLen := 0, resPreamble := 0, resStatus := 0, resTemp := 0, resHum := 0,
      resPress := 0, resVbat := 0, resCrc := 0, resPct := 0 }
  (∀ s : State, exec .reset s = .next { s with regs := cleared, resetSeen := true }) ∧
  ∀ s : State, s.sample.rst = some true → step s = .next { s.pastEdge with regs := cleared, resetSeen := true }

/-- R191: the reset values, in the state the model starts from and after every RESET edge, and the two constant outputs;
the zeros in the result registers are no measurement. -/
def Obligations.ResetValuesAsListed : Prop :=
  ∀ t : State, (t = State.reset ∨ ∃ s : State, exec .reset s = .next t) →
    t.regs.rspValid = 0 ∧ t.regs.rspCode = 0b00 ∧ t.regs.rspLen = 0 ∧ t.regs.resPreamble = 0x00 ∧
    t.regs.resStatus = 0x00 ∧ t.regs.resTemp = 0x0000 ∧ t.regs.resHum = 0x0000 ∧ t.regs.resPress = 0x00000 ∧
    t.regs.resVbat = 0x000 ∧ t.regs.resCrc = 0x00 ∧ t.regs.resPct = 0x00 ∧
    portLevel t .reqReady = 1 ∧ portLevel t .rspWarn = 0 ∧
    ∀ p : OutPort, p.isResult = true → hostRead t p = .error .noMeasurement

/-- R103: a DECODE of at least 10 bytes completes and latches the record, every code exact in its register; a DECODE of fewer
completes with the failure output. Nothing but the registers changes. The percentage is the machine's mode's (R156): under
TIE_DRAW the `RES_PCT` clause names the byte's draw, which is the model's, by log 4 (DEDUCED from R27 and R108). -/
def Obligations.DecodeLatchesItsResult : Prop :=
  (∀ (s : State) (len : Nat) (f : Frame), s.resetSeen = true → 10 ≤ len →
    ∃ r : Regs, exec (.decode len f.levels) s = .next { s with regs := r } ∧
      r.rspValid = 1 ∧ r.rspCode = 0b01 ∧ r.rspLen = len ∧
      r.resPreamble = f.b0 ∧ r.resStatus = f.b1 ∧
      r.resTemp.toNat = f.b2.toNat + 256 * f.b3.toNat ∧
      r.resTemp.toInt = (if 128 ≤ f.b3.toNat then ((f.b2.toNat + 256 * f.b3.toNat : Nat) : Int) - 65536
        else (f.b2.toNat + 256 * f.b3.toNat : Nat)) ∧
      r.resHum.toNat = f.b4.toNat + 256 * f.b5.toNat ∧
      r.resPress.toNat = f.b6.toNat + 256 * f.b7.toNat + 80000 ∧
      r.resVbat.toNat = 200 + f.b8.toNat ∧ r.resCrc = f.b9 ∧
      r.resPct.toNat = battPct s.cfg.battPctMode f.b8) ∧
  ∀ (s : State) (len : Nat) (l : LaneLevels), s.resetSeen = true → len < 10 →
    ∃ r : Regs, exec (.decode len l) s = .next { s with regs := r } ∧
      r.rspValid = 1 ∧ r.rspCode = 0b10 ∧ r.rspLen = len ∧ r.resPreamble = 0 ∧ r.resStatus = 0 ∧ r.resTemp = 0 ∧
      r.resHum = 0 ∧ r.resPress = 0 ∧ r.resVbat = 0 ∧ r.resCrc = 0 ∧ r.resPct = 0

/-- R172 with R61: the failure output, the same for all levels on the frame's lanes, defined or not. -/
def Obligations.ShortRequestFailsWholly : Prop :=
  ∀ (s : State) (len : Nat) (l : LaneLevels), s.resetSeen = true → len < 10 →
    exec (.decode len l) s = .next { s with
      regs := { rspValid := 1, rspCode := 0b10, rspLen := len, resPreamble := 0, resStatus := 0, resTemp := 0,
                resHum := 0, resPress := 0, resVbat := 0, resCrc := 0, resPct := 0 } }

/-- R104: IDLE clears `RSP_VALID` and keeps every other register. -/
def Obligations.IdleOnlyEndsThePulse : Prop :=
  ∀ s : State, s.resetSeen = true → exec .idle s = .next { s with regs := { s.regs with rspValid := 0 } }

/-! ### The field operations: result and frame -/

/-- R120: OP_LENCHK writes the length and the kind of result, and a DECODE shows both: at least 10 bytes succeed, fewer fail. -/
def Obligations.LengthCheckSetsCodeAndCount : Prop :=
  (∀ (s : State) (len : Nat), s.resetSeen = true → exec (.opLenchk len) s =
    .next { s with regs := { s.regs with rspLen := len, rspCode := if 10 ≤ len then 0b01 else 0b10 } }) ∧
  (∀ (s : State) (len : Nat) (f : Frame), s.resetSeen = true → ∃ t : State, exec (.decode len f.levels) s = .next t ∧
    t.regs.rspLen = len ∧ (10 ≤ len → t.regs.rspCode = 0b01) ∧ (len < 10 → t.regs.rspCode = 0b10)) ∧
  ∀ (s : State) (len : Nat) (l : LaneLevels), s.resetSeen = true → len < 10 →
    ∃ t : State, exec (.decode len l) s = .next t ∧ t.regs.rspCode = 0b10 ∧ t.regs.rspLen = len ∧
      t.regs.resPreamble = 0 ∧ t.regs.resStatus = 0 ∧ t.regs.resTemp = 0 ∧ t.regs.resHum = 0 ∧ t.regs.resPress = 0 ∧
      t.regs.resVbat = 0 ∧ t.regs.resCrc = 0 ∧ t.regs.resPct = 0

/-- R121, R122, R128: the preamble, status and CRC bytes pass through unchanged, and nothing else changes; no value
of them makes a DECODE fail. -/
def Obligations.VerbatimBytesPassThrough : Prop :=
  (∀ (s : State) (x : Byte), s.resetSeen = true →
    exec (.opPreamble x) s = .next { s with regs := { s.regs with resPreamble := x } } ∧
    exec (.opStatus x) s = .next { s with regs := { s.regs with resStatus := x } } ∧
    exec (.opCrc x) s = .next { s with regs := { s.regs with resCrc := x } }) ∧
  ∀ (s : State) (len : Nat) (f : Frame), s.resetSeen = true → 10 ≤ len →
    ∃ t : State, exec (.decode len f.levels) s = .next t ∧ t.regs.rspCode = 0b01 ∧
      t.regs.resPreamble = f.b0 ∧ t.regs.resStatus = f.b1 ∧ t.regs.resCrc = f.b9

/-- R125 (with R123 and R124): the pair is unpacked low byte first and read as two's complement, and nothing else changes. -/
def Obligations.TemperatureIsSignExtendedPair : Prop :=
  ∀ (s : State) (lo hi : Byte), s.resetSeen = true →
    ∃ r : BitVec 16, exec (.opTemp lo hi) s = .next { s with regs := { s.regs with resTemp := r } } ∧
      r.toNat = lo.toNat + 256 * hi.toNat ∧
      r.toInt = (if r.getLsbD 15 then (r.toNat : Int) - 0x10000 else r.toNat) ∧
      -32768 ≤ r.toInt ∧ r.toInt ≤ 32767

/-- R126: the humidity is the unsigned pair, and nothing else changes. -/
def Obligations.HumidityIsUnsignedPair : Prop :=
  ∀ (s : State) (lo hi : Byte), s.resetSeen = true →
    ∃ r : BitVec 16, exec (.opHum lo hi) s = .next { s with regs := { s.regs with resHum := r } } ∧
      r.toNat = lo.toNat + 256 * hi.toNat

/-- R127: the pressure is the unsigned pair plus 80000, exact in 18 bits, and nothing else changes. -/
def Obligations.PressureIsPairPlusOffset : Prop :=
  ∀ (s : State) (lo hi : Byte), s.resetSeen = true →
    ∃ r : BitVec 18, exec (.opPress lo hi) s = .next { s with regs := { s.regs with resPress := r } } ∧
      r.toNat = lo.toNat + 256 * hi.toNat + 80000 ∧ 80000 ≤ r.toNat ∧ r.toNat ≤ 145535

/-- R150: the voltage is the byte plus 200, exact in 9 bits, and nothing else changes. -/
def Obligations.VoltageIsBytePlusOffset : Prop :=
  ∀ (s : State) (v : Byte), s.resetSeen = true →
    ∃ r : BitVec 9, exec (.opVbat v) s = .next { s with regs := { s.regs with resVbat := r } } ∧
      r.toNat = 200 + v.toNat ∧ 200 ≤ r.toNat ∧ r.toNat ≤ 455

/-- R151: under EXACT, OP_BATTPCT writes the rational formula's value (clamp the voltage, evaluate, round, clamp below), and
nothing else changes. -/
def Obligations.PercentageIsTheFormula : Prop :=
  ∀ (s : State) (v : Byte), s.resetSeen = true → s.cfg.battPctMode = .exactForm →
    ∃ r : BitVec 7, exec (.opBattpct v) s = .next { s with regs := { s.regs with resPct := r } } ∧
      (r.toNat : Int) = battPctExact (200 + v.toNat)

/-- The modes of R156. In each, OP_BATTPCT completes and writes `RES_PCT` alone; off the tie inputs all give the integer form;
under DOC_BINARY64 the value is that of the document's expression in binary64, which differs from the integer form at 78 and
86 alone; under TIE_DRAW it is, at the tie `54 + 8k`, one of `5k + 2` and `5k + 3`, whichever the free value of log 4 takes. -/
def Obligations.PercentageInEachMode : Prop :=
  ∀ (s : State) (v : Byte), s.resetSeen = true →
    ∃ r : BitVec 7, exec (.opBattpct v) s = .next { s with regs := { s.regs with resPct := r } } ∧
      (isTie v = false → r.toNat = battPctInt (200 + v.toNat)) ∧
      (s.cfg.battPctMode = .exactForm → r.toNat = battPctInt (200 + v.toNat)) ∧
      (s.cfg.battPctMode = .docBinary64 →
        r.toNat = docPct64 v ∧ (r.toNat = battPctInt (200 + v.toNat) ↔ v ≠ 78 ∧ v ≠ 86) ∧
        (v = 78 → r.toNat = 17) ∧ (v = 86 → r.toNat = 22)) ∧
      (s.cfg.battPctMode = .tieDraw → ∀ k : Nat, k ≤ 19 → v.toNat = 54 + 8 * k →
        r.toNat = 5 * k + 2 ∨ r.toNat = 5 * k + 3)

/-! ### The battery percentage as a function -/

/-- R154: the integer form the hardware computes is the exact-rational definition, at every voltage code. -/
def Obligations.IntegerFormEqualsFormula : Prop :=
  ∀ V : Nat, 200 ≤ V → V ≤ 455 → (battPctInt V : Int) = battPctExact V

/-- R155: the tie inputs are the 20 listed bytes, where the exact value is `5k + 2.5` and rounds to `5k + 3`; the six negative
ties lie in [-27.5, -2.5] and end as 0. -/
def Obligations.TieInputsAreTheListed : Prop :=
  (∀ v : Byte, (halfway v ∧ 0 < exactPercentage (vbatCode v)) ↔
    v.toNat ∈ [54, 62, 70, 78, 86, 94, 102, 110, 118, 126, 134, 142, 150, 158, 166, 174, 182, 190, 198, 206]) ∧
  (∀ v : Byte, isTie v = true ↔ ∃ k : Nat, k ≤ 19 ∧ v.toNat = 54 + 8 * k) ∧
  (∀ (v : Byte) (k : Nat), k ≤ 19 → v.toNat = 54 + 8 * k →
    exactPercentage (vbatCode v) = 5 * k + 5 / 2 ∧ battPctExact (vbatCode v) = 5 * k + 3) ∧
  ∀ v : Byte, (halfway v ∧ exactPercentage (vbatCode v) < 0 ↔ v.toNat ∈ [6, 14, 22, 30, 38, 46]) ∧
    (v.toNat ∈ [6, 14, 22, 30, 38, 46] →
      -55 / 2 ≤ exactPercentage (vbatCode v) ∧ exactPercentage (vbatCode v) ≤ -5 / 2 ∧ battPctExact (vbatCode v) = 0)

/-- R157, in every mode: the range, the two clamps, the order, and that 7 bits hold it. -/
def Obligations.PercentageBoundsAndOrder : Prop :=
  ∀ mode : BattPctMode,
    (∀ v : Byte, battPct mode v ≤ 100 ∧ battPct mode v < 2 ^ 7) ∧
    (∀ v : Byte, 210 ≤ v.toNat → battPct mode v = 100) ∧
    (∀ v : Byte, v.toNat ≤ 50 → battPct mode v = 0) ∧
    ∀ v w : Byte, v.toNat ≤ w.toNat → battPct mode v ≤ battPct mode w

/-- R158: the closed form under EXACT, range by range. -/
def Obligations.PercentageClosedForm : Prop :=
  ∀ v : Byte,
    (v.toNat ≤ 50 → battPct .exactForm v = 0) ∧
    (51 ≤ v.toNat → v.toNat ≤ 210 →
      battPct .exactForm v = (5 * (v.toNat - 50) + 4) / 8 ∧ 1 ≤ battPct .exactForm v ∧ battPct .exactForm v ≤ 100) ∧
    (211 ≤ v.toNat → battPct .exactForm v = 100)

/-- The deviations that R156 lists for the three binary64 forms it evaluates. Binary64 itself is general knowledge (G1, G3;
log 5), so this rests on the model's evaluator. -/
def Obligations.BinaryFormsDeviateAsListed : Prop :=
  ∀ v : Byte,
    (docPct64 v ≠ battPctInt (vbatCode v) ↔ v.toNat ∈ [78, 86]) ∧
    (examplePct64 v ≠ battPctInt (vbatCode v) ↔ v.toNat ∈ [78, 86, 94, 126, 134, 142, 182, 190, 206]) ∧
    (reorderedPct64 v ≠ battPctInt (vbatCode v) ↔ v.toNat ∈ [78, 86, 126])

/-! ### DECODE as a whole -/

/-- R101 seen from outside: after a DECODE of any length and any frame under EXACT, what the host reads port by port is the
result of the decoding function, written on integers and exact rationals, and the count is the request's. -/
def Obligations.HostReadsTheDecodedFrame : Prop :=
  ∀ (s : State) (len : Nat) (f : Frame), s.resetSeen = true → s.cfg.battPctMode = .exactForm →
    ∃ t : State, exec (.decode len f.levels) s = .next t ∧ hostSees t (decodeExact len f) ∧
      hostRead t .rspLen = .ok len

/-- R79: a DECODE is its field operations, done one after the other, and the pulse; when the length check fails, OP_LENCHK
alone, the pulse, and zeros in the data registers. Under TIE_DRAW the first clause rests on log 4 (DEDUCED): OP_BATTPCT done
alone draws as the DECODE does. -/
def Obligations.DecodeIsItsFieldOperations : Prop :=
  (∀ (s : State) (len : Nat) (f : Frame), s.resetSeen = true → 10 ≤ len →
    ∃ u : State, execAll (fieldOps len f.levels) s = .next u ∧ exec (.decode len f.levels) s = .next (u.setRspValid 1)) ∧
  ∀ (s : State) (len : Nat) (l : LaneLevels), s.resetSeen = true → len < 10 →
    ∃ u : State, execAll (fieldOps len l) s = .next u ∧
      exec (.decode len l) s = .next { u with
        regs := { failureRegs u.regs.rspLen with rspCode := u.regs.rspCode } }

/-- R79: the eight data field operations are done in parallel, so any order of them leaves the same state. Under TIE_DRAW
this rests on log 4 (DEDUCED): OP_BATTPCT draws alike in every order. -/
def Obligations.FieldOrderDoesNotMatter : Prop :=
  ∀ (s : State) (f : Frame) (l : List Instr), s.resetSeen = true → l.Perm (dataOps f) →
    ∃ u : State, execAll l s = .next u ∧ execAll (dataOps f) s = .next u

/-- R54, R59: each data register depends on its own bytes of the frame and on no other. Under TIE_DRAW the clause for `RES_PCT`
rests on log 4 (DEDUCED), that a tie's draw is a function of the byte: R108 speaks of equal frames only. -/
def Obligations.EachFieldReadsItsOwnBytes : Prop :=
  ∀ (s : State) (len : Nat) (f g : Frame), s.resetSeen = true → 10 ≤ len →
    ∃ t u : State, exec (.decode len f.levels) s = .next t ∧ exec (.decode len g.levels) s = .next u ∧
      (f.b0 = g.b0 → t.regs.resPreamble = u.regs.resPreamble) ∧
      (f.b1 = g.b1 → t.regs.resStatus = u.regs.resStatus) ∧
      (f.b2 = g.b2 → f.b3 = g.b3 → t.regs.resTemp = u.regs.resTemp) ∧
      (f.b4 = g.b4 → f.b5 = g.b5 → t.regs.resHum = u.regs.resHum) ∧
      (f.b6 = g.b6 → f.b7 = g.b7 → t.regs.resPress = u.regs.resPress) ∧
      (f.b8 = g.b8 → t.regs.resVbat = u.regs.resVbat ∧ t.regs.resPct = u.regs.resPct) ∧
      (f.b9 = g.b9 → t.regs.resCrc = u.regs.resCrc)

/-- R108: the same request decoded at two points of one run, whatever happened between them, gives the same registers. Under
TIE_DRAW this rests on log 4 (DEDUCED), that a tie's draw is a function of the byte. -/
def Obligations.DecodeForgetsThePast : Prop :=
  ∀ (k : Nat) (s s' : State) (len : Nat) (l : LaneLevels), s.resetSeen = true →
    Host.Core.run Sys2Proof.core k s = .next s' → (Instr.decode len l).wf s.cfg = true →
    ∃ t t' : State, exec (.decode len l) s = .next t ∧ exec (.decode len l) s' = .next t' ∧ t.regs = t'.regs

/-- R106: two requests at consecutive edges are both accepted, `RSP_VALID` stays 1, and the second response is the one its
request alone would leave. Under TIE_DRAW the last clause rests on log 4 (DEDUCED), that a tie's draw is a function of the byte
(R27, R108): it compares one request decoded at two edges. -/
def Obligations.BackToBackReplacesWholly : Prop :=
  ∀ (s : State) (n m : Nat) (l l' : LaneLevels) (rest : List Edge), s.resetSeen = true →
    s.program = requestEdge n l :: requestEdge m l' :: rest →
    (Instr.decode n l).wf s.cfg = true → (Instr.decode m l').wf s.cfg = true →
    ∃ t u v : State, step s = .next t ∧ step t = .next u ∧ exec (.decode m l') s = .next v ∧
      t.regs.rspValid = 1 ∧ u.regs.rspValid = 1 ∧ u.regs = v.regs

/-- R198: a DECODE that reads an undefined lane is refused, where a model chooses no value. -/
def Obligations.DecodeRefusesUndefinedLanes : Prop :=
  ∀ (s : State) (len : Nat) (l : LaneLevels), 10 ≤ len → l.driven = false →
    exec (.decode len l) s = .refused (.badEdge (.undefinedInput .reqFrame))

/-! ### One step -/

/-- R102: a step is the operation of the sampled edge, done past that edge; an edge without an operation is refused. The
sampled levels are the first listed edge's, and past the edge nothing but the listing and the edge's number differs. The
listing is the model's (log 1). -/
def Obligations.StepRunsTheSampledOperation : Prop :=
  (∀ (s : State) (i : Instr), decodeEdge s.cfg s.sample = .ok i → step s = exec i s.pastEdge) ∧
  (∀ (s : State) (e : EdgeError), decodeEdge s.cfg s.sample = .error e → step s = .refused (.badEdge e)) ∧
  (∀ (s : State) (e : Edge) (rest : List Edge), s.program = e :: rest →
    s.sample = e ∧ s.pastEdge = { s with program := rest, edgeNo := s.edgeNo + 1 }) ∧
  ∀ (s : State) (i : Instr), decodeEdge s.cfg s.sample = .ok i → i.wf s.cfg = true

/-- R72: every value of the two control bits selects exactly its operation. -/
def Obligations.ControlWordSelectsOperation : Prop :=
  ∀ (c : Config) (rst valid : Bool) (len : Nat) (f : Frame), len < 2 ^ c.lenW →
    decodeEdge c ⟨some rst, some valid, some len, f.levels⟩ =
      .ok (match rst, valid with
        | true, _ => .reset
        | false, true => .decode len f.levels
        | false, false => .idle)

/-- R198, R109: with a length that its wires can carry, an edge completes exactly where every input FDEC reads at it is
defined; otherwise it is refused for such an input. -/
def Obligations.EdgesCompleteExactlyWhenDefined : Prop :=
  ∀ s : State, (∀ n, s.sample.reqLen = some n → n < 2 ^ s.cfg.lenW) →
    ((∀ p, s.sample.reads p → s.sample.defined p) → ∃ t, step s = .next t) ∧
    (¬ (∀ p, s.sample.reads p → s.sample.defined p) →
      ∃ p, s.sample.reads p ∧ ¬ s.sample.defined p ∧ step s = .refused (.badEdge (.undefinedInput p)))

/-- The model's choice for an edge that its listing does not reach (log 2): whatever a dutiful host drives there, the edge
completes, so the machine never stops on its own (R109). -/
def Obligations.UnlistedEdgesComplete : Prop :=
  ∀ s : State, s.program = [] → s.sample.dutiful s.cfg ∧ ∃ t, step s = .next t

/-- R72, R73, R61: levels on inputs that FDEC does not read at an edge have no effect, whether defined or not.
Under TIE_DRAW this rests on log 4 (DEDUCED): the two edges draw alike at a tie. -/
def Obligations.UnreadInputsHaveNoEffect : Prop :=
  ∀ (s : State) (e e' : Edge), e.sameRead e' → step (s.withEdge e) = step (s.withEdge e')

/-- R24: after an edge `RSP_VALID` is 1 exactly where the edge was an accepting edge. -/
def Obligations.PulseMarksAcceptingEdges : Prop :=
  ∀ s t : State, step s = .next t → t.resetSeen = true →
    (t.regs.rspValid = 1 ↔ s.sample.rst = some false ∧ s.sample.reqValid = some true)

/-- R26: `RSP_LEN` is the length sampled at the last accepting edge: written there, kept by idle edges, 0 after a reset. -/
def Obligations.CountIsOfTheLastRequest : Prop :=
  ∀ s t : State, step s = .next t → t.resetSeen = true →
    (s.sample.rst = some true → t.regs.rspLen = 0) ∧
    (s.sample.rst = some false → s.sample.reqValid = some false → t.regs.rspLen = s.regs.rspLen) ∧
    (s.sample.rst = some false → s.sample.reqValid = some true → s.sample.reqLen = some t.regs.rspLen)

/-- R78: no step produces `RSP_CODE = 0b11`; it stays only where an idle edge keeps it. -/
def Obligations.ReservedCodeNeverProduced : Prop :=
  ∀ s t : State, step s = .next t → t.regs.rspCode = 0b11 →
    s.regs.rspCode = 0b11 ∧ s.sample.rst = some false ∧ s.sample.reqValid = some false ∧ t.resetSeen = s.resetSeen

/-- R8, R58: no operation changes a parameter or the host's inputs, and the record that a RESET edge has occurred changes at
RESET alone. -/
def Obligations.OperationsChangeRegistersOnly : Prop :=
  ∀ (i : Instr) (s t : State), exec i s = .next t →
    t = { s with regs := t.regs, resetSeen := t.resetSeen } ∧ (t.resetSeen = true ↔ s.resetSeen = true ∨ i = .reset)

/-! ### The invariant -/

/-- Every step keeps the invariant: the parameters stay legal, `RSP_LEN` fits its bits, and once a RESET edge has occurred the
registers hold nothing yet, or the whole result of one single request (R25, R57, R63, R172). Under TIE_DRAW the
percentage of that result is the byte's draw, by log 4 (DEDUCED). -/
def Obligations.StepKeepsTheInvariant : Prop :=
  ∀ s t : State, s.Inv → step s = .next t → t.Inv

/-- The invariant holds right after reset, and, whatever the registers hold, at power-up. -/
def Obligations.InvariantHoldsAtResetAndPowerUp : Prop :=
  State.reset.Inv ∧
  ∀ (c : Config) (contents : Regs) (program : List Edge), c.wf → contents.rspLen < 2 ^ c.lenW →
    (State.powerUp c contents program).Inv

/-- R22: while `RSP_CODE = 0b01`, in any machine that meets the invariant, the host reads all eight result ports; each code lies in
its range, and so does the value of each scaled field. -/
def Obligations.MeasurementsLieInTheirRanges : Prop :=
  ∀ s : State, s.Inv → s.resetSeen = true → s.regs.rspCode = 0b01 →
    ∃ (pre sta crc : Nat) (T : Int) (H P V pct : Nat),
      hostRead s .resPreamble = .ok pre ∧ hostRead s .resStatus = .ok sta ∧ hostRead s .resCrc = .ok crc ∧
      hostReadTemperature s = .ok T ∧ hostRead s .resHum = .ok H ∧ hostRead s .resPress = .ok P ∧
      hostRead s .resVbat = .ok V ∧ hostRead s .resPct = .ok pct ∧
      pre ≤ 255 ∧ sta ≤ 255 ∧ crc ≤ 255 ∧
      -32768 ≤ T ∧ T ≤ 32767 ∧ H ≤ 65535 ∧ 80000 ≤ P ∧ P ≤ 145535 ∧ 200 ≤ V ∧ V ≤ 455 ∧ pct ≤ 100 ∧
      -(32768 / 100) ≤ hundredths T ∧ hundredths T ≤ 32767 / 100 ∧
      0 ≤ hundredths H ∧ hundredths H ≤ 65535 / 100 ∧ 800 ≤ hundredths P ∧ hundredths P ≤ 145535 / 100 ∧ 2 ≤ hundredths V ∧ hundredths V ≤ 455 / 100

/-- R31, R192, R78: when a read of an output gives a value, and why it gives none. The ports that a reserved `RSP_CODE` makes
unreadable are the model's reading of R78 (log 11). -/
def Obligations.ReadsGiveValuesWhereTheyExist : Prop :=
  (∀ s : State, hostRead s .reqReady = .ok 1 ∧ hostRead s .rspWarn = .ok 0) ∧
  (∀ (s : State) (p : OutPort), p.isConstant = false → s.resetSeen = false → hostRead s p = .error .readBeforeReset) ∧
  (∀ (s : State) (p : OutPort), p.isConstant = false → s.resetSeen = true → s.regs.rspCode = 0b11 →
    hostRead s p = .error .reservedCode) ∧
  (∀ (s : State) (p : OutPort), p.isResult = true → s.resetSeen = true → s.regs.rspCode = 0b00 ∨ s.regs.rspCode = 0b10 →
    hostRead s p = .error .noMeasurement) ∧
  (∀ (s : State) (p : OutPort), s.resetSeen = true → s.regs.rspCode = 0b01 → hostRead s p = .ok (portLevel s p)) ∧
  ∀ (s : State), s.resetSeen = true → s.regs.rspCode ≠ 0b11 →
    hostRead s .rspValid = .ok s.regs.rspValid.toNat ∧ hostRead s .rspCode = .ok s.regs.rspCode.toNat ∧
    hostRead s .rspLen = .ok s.regs.rspLen

/-! ### Encodings -/

/-- R71, R75: the bus and the ten bytes carry the same, in both directions; the bus is the sum of `b[i] * 2^(8i)`; and each
16-bit field is a plain slice of it. -/
def Obligations.FramePackingIsLossless : Prop :=
  (∀ f : Frame, unpackFrame f.pack = f) ∧ (∀ w : BitVec 80, (unpackFrame w).pack = w) ∧
  (∀ f : Frame, f.pack.toNat = f.b0.toNat + f.b1.toNat * 2 ^ 8 + f.b2.toNat * 2 ^ 16 + f.b3.toNat * 2 ^ 24 +
    f.b4.toNat * 2 ^ 32 + f.b5.toNat * 2 ^ 40 + f.b6.toNat * 2 ^ 48 + f.b7.toNat * 2 ^ 56 + f.b8.toNat * 2 ^ 64 +
    f.b9.toNat * 2 ^ 72) ∧
  (∀ f : Frame, le16 f.b2 f.b3 = f.pack.extractLsb' 16 16 ∧ le16 f.b4 f.b5 = f.pack.extractLsb' 32 16 ∧
    le16 f.b6 f.b7 = f.pack.extractLsb' 48 16) ∧
  ∀ (f : Frame) (i : Fin 10), frameByte f i = f.pack.extractLsb' (8 * i.val) 8

/-- Every well-formed operation, with every operand its encoding admits, is done at the edge whose levels are the bits of its
request word (R73, R74, R79). For a DECODE the lanes are driven, as bits always are; the word's layout is the model's (log 8,
log 12). -/
def Obligations.RequestWordRoundTrip : Prop :=
  ∀ (c : Config) (i : Instr), c.wf → i.wf c = true → (∀ len l, i = .decode len l → l.driven = true) →
    i ∈ edgeOps c (Edge.ofWord c (encodeWord c i))

/-- Words written out from the spec's encoding: `ctl` (R72), then `req_len` and `req_frame` of the example frame of R71. -/
def Obligations.SpecWordsDecode : Prop :=
  decodeTableWord 8 0b10 = some .reset ∧ decodeTableWord 8 0b11 = some .reset ∧ decodeTableWord 8 0b00 = some .idle ∧
  decodeTableWord 8 0b01 = some (.decode 0 (Lanes.all 0).levels) ∧
  decodeTableWord 96 (0xAB960030002000100201 <<< 10 ||| 10 <<< 2 ||| 0b01) =
    some (.decode 10 (Lanes.levels ⟨0x01, 0x02, 0x10, 0x00, 0x20, 0x00, 0x30, 0x00, 0x96, 0xAB⟩))

/-- A request word placed at the coming edge is the operation the next step does. -/
def Obligations.PlacedWordIsRun : Prop :=
  ∀ (s : State) (nbits w : Nat) (i : Instr), s.cfg = {} → decodeTableWord nbits w = some i →
    step (s.withFetchWord nbits w) = exec i s.pastEdge

/-- R82: the saturated length fits the wires, is the count where that fits, and keeps the test `n ≥ 10` for every count. -/
def Obligations.SaturatedLengthKeepsTheTest : Prop :=
  ∀ (c : Config) (n : Nat), c.wf →
    hostLen c n < 2 ^ c.lenW ∧ (n < 2 ^ c.lenW → hostLen c n = n) ∧
    (2 ^ c.lenW ≤ n → hostLen c n = 2 ^ c.lenW - 1) ∧ (10 ≤ hostLen c n ↔ 10 ≤ n)
end

