-- ==== Sys2Proof/Laws/Decode.lean ====
section
/-! SUPPORT. What the decoder and the lanes' functions do, said once. -/

namespace Sys2Proof

@[simp] theorem Lanes.bytes?_levels (f : Frame) : f.levels.bytes? = some f := rfl

@[simp] theorem Lanes.driven_levels (f : Frame) : f.levels.driven = true := rfl

@[simp] theorem Lanes.shown_levels (f : Frame) : f.levels.shown = f := rfl

/-- Driven lanes are the levels of some frame. -/
theorem Lanes.exists_levels_of_driven {l : LaneLevels} (h : l.driven = true) : ∃ f : Frame, l = f.levels := by
  obtain ⟨b0, b1, b2, b3, b4, b5, b6, b7, b8, b9⟩ := l
  simp only [Lanes.driven, Bool.and_eq_true, Option.isSome_iff_exists] at h
  obtain ⟨⟨⟨⟨⟨⟨⟨⟨⟨⟨x0, rfl⟩, ⟨x1, rfl⟩⟩, ⟨x2, rfl⟩⟩, ⟨x3, rfl⟩⟩, ⟨x4, rfl⟩⟩, ⟨x5, rfl⟩⟩, ⟨x6, rfl⟩⟩, ⟨x7, rfl⟩⟩,
    ⟨x8, rfl⟩⟩, ⟨x9, rfl⟩⟩ := h
  exact ⟨⟨x0, x1, x2, x3, x4, x5, x6, x7, x8, x9⟩, rfl⟩

/-- The bytes of lanes exist exactly where every lane is driven. -/
theorem Lanes.bytes?_eq_none_iff {l : LaneLevels} : l.bytes? = none ↔ l.driven = false := by
  constructor
  · intro h
    by_contra hd
    obtain ⟨f, rfl⟩ := Lanes.exists_levels_of_driven (by simpa using hd)
    simp at h
  · intro h
    rcases hb : l.bytes? with _ | f
    · rfl
    · exfalso
      revert hb h
      obtain ⟨b0, b1, b2, b3, b4, b5, b6, b7, b8, b9⟩ := l
      cases b0 <;> cases b1 <;> cases b2 <;> cases b3 <;> cases b4 <;> cases b5 <;> cases b6 <;> cases b7 <;>
        cases b8 <;> cases b9 <;> simp [Lanes.bytes?, Lanes.driven]

@[simp] theorem decodeEdge_rst (c : Config) (v : Option Bool) (n : Option Nat) (l : LaneLevels) :
    decodeEdge c ⟨some true, v, n, l⟩ = .ok .reset := rfl

@[simp] theorem decodeEdge_idle (c : Config) (n : Option Nat) (l : LaneLevels) :
    decodeEdge c ⟨some false, some false, n, l⟩ = .ok .idle := rfl

/-- A request whose length fits its wires and whose read lanes are driven is a DECODE of it. -/
theorem decodeEdge_request {c : Config} {len : Nat} {l : LaneLevels} (hn : len < 2 ^ c.lenW)
    (hl : len < 10 ∨ l.driven = true) : decodeEdge c (requestEdge len l) = .ok (.decode len l) := by
  have : ¬ 2 ^ c.lenW ≤ len := by omega
  simp [decodeEdge, requestEdge, this, hl]

/-- All that the decoder can give: an edge that has an operation is a reset, an idle edge, or a request that is well
formed. -/
theorem decodeEdge_ok {c : Config} {e : Edge} {i : Instr} (h : decodeEdge c e = .ok i) :
    (e.rst = some true ∧ i = .reset) ∨
    (e.rst = some false ∧ e.reqValid = some false ∧ i = .idle) ∨
    (∃ len, e = requestEdge len e.reqFrame ∧ i = .decode len e.reqFrame ∧ len < 2 ^ c.lenW ∧
      (len < 10 ∨ e.reqFrame.driven = true)) := by
  obtain ⟨rst, reqValid, reqLen, reqFrame⟩ := e
  rcases rst with _ | _ | _
  · simp [decodeEdge] at h
  · rcases reqValid with _ | _ | _
    · simp [decodeEdge] at h
    · simp [decodeEdge] at h
      simp [h]
    · rcases reqLen with _ | len
      · simp [decodeEdge] at h
      · simp only [decodeEdge] at h
        split at h
        · simp at h
        · rename_i hlt
          split at h
          · rename_i hl
            simp at h hl
            exact .inr (.inr ⟨len, rfl, h.symm, by omega, hl⟩)
          · simp at h
  · simp [decodeEdge] at h
    simp [h]

/-- What the decoder gives is well formed. -/
theorem decodeEdge_wf {c : Config} {e : Edge} {i : Instr} (h : decodeEdge c e = .ok i) : i.wf c = true := by
  rcases decodeEdge_ok h with ⟨_, rfl⟩ | ⟨_, _, rfl⟩ | ⟨len, _, rfl, hn, hl⟩
  · rfl
  · rfl
  · simpa [Instr.wf, hn] using hl

/-- A host that keeps its duties gives a length that fits its wires. -/
theorem hostLen_lt (c : Config) (n : Nat) : hostLen c n < 2 ^ c.lenW := by
  have := Nat.two_pow_pos c.lenW
  unfold hostLen
  omega

end Sys2Proof
end

