-- ==== Sys2Proof/Laws/Operands.lean ====
section
/-! SUPPORT. The operand functions as numbers, and the bounds that make every store exact (spec/41_field_decode.md R130). -/

namespace Sys2Proof.Machine

theorem le16_toNat (lo hi : Byte) : (le16 lo hi).toNat = pairValue lo hi := by
  have h1 := lo.isLt
  have h2 := hi.isLt
  have h := Nat.two_pow_add_eq_or_of_lt h1 hi.toNat
  simp only [le16, BitVec.toNat_or, BitVec.toNat_shiftLeft, BitVec.toNat_setWidth, Nat.shiftLeft_eq, pairValue]
  rw [Nat.mod_eq_of_lt (by omega : lo.toNat < 2 ^ 16), Nat.mod_eq_of_lt (by omega : hi.toNat < 2 ^ 16),
    Nat.mod_eq_of_lt (by omega : hi.toNat * 2 ^ 8 < 2 ^ 16), Nat.or_comm, Nat.mul_comm, ← h]
  omega

theorem pairValue_lt (lo hi : Byte) : pairValue lo hi < 65536 := by
  have h1 := lo.isLt
  have h2 := hi.isLt
  unfold pairValue
  omega

/-- The sign extender reads the pattern as two's complement. -/
theorem sext16_eq_toInt (r : BitVec 16) : sext16 r = r.toInt := by
  simp only [sext16, BitVec.toInt_eq_msb_cond, BitVec.msb_eq_getLsbD_last]
  rfl

/-- The stored pattern of the temperature is the raw pair. -/
theorem ofInt_tempCode (lo hi : Byte) : BitVec.ofInt 16 (tempCode lo hi) = le16 lo hi := by
  rw [tempCode, sext16_eq_toInt, BitVec.ofInt_toInt]

theorem vbatCode_bounds (v : Byte) : 200 ≤ vbatCode v ∧ vbatCode v ≤ 455 := by
  have := v.isLt
  unfold vbatCode
  omega

/-- The integer form as a formula in the voltage code. -/
theorem battPctInt_eq (V : Nat) :
    battPctInt V = if V ≤ 250 then 0 else if V ≤ 410 then (5 * (V - 250) + 4) / 8 else 100 := by
  unfold battPctInt
  simp only [Nat.shiftRight_eq_div_pow]
  split_ifs <;> omega

theorem battPctInt_le (V : Nat) : battPctInt V ≤ 100 := by
  rw [battPctInt_eq]
  split_ifs <;> omega

/-- At the tie input `54 + 8k` the integer form gives `5k + 3`. -/
theorem battPctInt_tie {v : Byte} (h : isTie v = true) : battPctInt (vbatCode v) = 5 * ((v.toNat - 54) / 8) + 3 := by
  simp only [isTie, Bool.and_eq_true, decide_eq_true_eq, beq_iff_eq] at h
  rw [battPctInt_eq, vbatCode]
  split_ifs <;> omega

/-- All that a mode's percentage can be: the integer form's value, or, at a tie, one less. -/
theorem battPct_cases (mode : BattPctMode) (v : Byte) :
    battPct mode v = battPctInt (vbatCode v) ∨
    (isTie v = true ∧ battPct mode v + 1 = battPctInt (vbatCode v)) := by
  cases mode with
  | exactForm => exact .inl rfl
  | docBinary64 =>
    by_cases h78 : v = 78
    · subst h78; exact .inr (by decide)
    · by_cases h86 : v = 86
      · subst h86; exact .inr (by decide)
      · exact .inl (by rw [battPct, if_neg h78, if_neg h86])
  | tieDraw =>
    by_cases ht : isTie v = true
    · have := battPctInt_tie ht
      cases hd : Config.tieDraw v
      · exact .inr ⟨ht, by simp [battPct, ht, hd]; omega⟩
      · exact .inl (by simp [battPct, ht, hd]; omega)
    · exact .inl (by simp [battPct, ht])

theorem battPct_le (mode : BattPctMode) (v : Byte) : battPct mode v ≤ 100 := by
  have := battPctInt_le (vbatCode v)
  rcases battPct_cases mode v with h | ⟨_, h⟩ <;> omega

/-- No store of a code truncates (R11, R130). -/
theorem humCode_toNat (lo hi : Byte) : (BitVec.ofNat 16 (humCode lo hi)).toNat = pairValue lo hi := by
  rw [humCode, BitVec.ofNat_toNat, BitVec.setWidth_eq, le16_toNat]

theorem pressCode_toNat (lo hi : Byte) : (BitVec.ofNat 18 (pressCode lo hi)).toNat = pairValue lo hi + 80000 := by
  have := pairValue_lt lo hi
  rw [pressCode, le16_toNat, BitVec.toNat_ofNat]
  omega

theorem vbatCode_toNat (v : Byte) : (BitVec.ofNat 9 (vbatCode v)).toNat = vbatCode v := by
  have := vbatCode_bounds v
  rw [BitVec.toNat_ofNat]
  omega

theorem battPct_toNat (mode : BattPctMode) (v : Byte) : (BitVec.ofNat 7 (battPct mode v)).toNat = battPct mode v := by
  have := battPct_le mode v
  rw [BitVec.toNat_ofNat]
  omega

end Sys2Proof.Machine
end

