-- ==== Sys2Proof/Laws/PerInstr.lean ====
section
/-! SUPPORT. Said of every operation as syntax: at the edge its encoding gives, it is done. -/

namespace Sys2Proof.Laws.EncodedIsDone

/-- The operation is among those done at the edge that encodes it, under every legal configuration. -/
def Statement (i : Instr) : Prop := ∀ c : Config, c.wf → i.wf c = true → i ∈ edgeOps c (encode i)

theorem ten_lt {c : Config} (h : c.wf) : 10 < 2 ^ c.lenW :=
  Nat.lt_of_lt_of_le (by decide : 10 < 2 ^ 4) (Nat.pow_le_pow_right (by decide) h)

/-- What is done at a request of ten driven bytes. -/
theorem edgeOps_request {c : Config} (h : c.wf) (f : Frame) :
    edgeOps c (requestEdge 10 f.levels) = .decode 10 f.levels :: .opLenchk 10 :: dataOps f := by
  simp [edgeOps, decodeEdge_request (ten_lt h), fieldOps]

theorem reset : Statement .reset := by intro c _ _; simp [edgeOps, encode]

theorem decode (len : Nat) (frame : LaneLevels) : Statement (.decode len frame) := by
  intro c _ h
  simp [Instr.wf] at h
  simp [edgeOps, encode, decodeEdge_request h.1 h.2]

theorem idle : Statement .idle := by intro c _ _; simp [edgeOps, encode]

theorem opLenchk (len : Nat) : Statement (.opLenchk len) := by
  intro c _ h
  simp [Instr.wf] at h
  simp [edgeOps, encode, decodeEdge_request h (.inr (Lanes.driven_levels _)), fieldOps]

theorem opPreamble (p : Byte) : Statement (.opPreamble p) := by
  intro c hc _; simp [encode, edgeOps_request hc, dataOps]

theorem opStatus (st : Byte) : Statement (.opStatus st) := by
  intro c hc _; simp [encode, edgeOps_request hc, dataOps]

theorem opTemp (lo hi : Byte) : Statement (.opTemp lo hi) := by
  intro c hc _; simp [encode, edgeOps_request hc, dataOps]

theorem opHum (lo hi : Byte) : Statement (.opHum lo hi) := by
  intro c hc _; simp [encode, edgeOps_request hc, dataOps]

theorem opPress (lo hi : Byte) : Statement (.opPress lo hi) := by
  intro c hc _; simp [encode, edgeOps_request hc, dataOps]

theorem opVbat (v : Byte) : Statement (.opVbat v) := by
  intro c hc _; simp [encode, edgeOps_request hc, dataOps]

theorem opBattpct (v : Byte) : Statement (.opBattpct v) := by
  intro c hc _; simp [encode, edgeOps_request hc, dataOps]

theorem opCrc (c : Byte) : Statement (.opCrc c) := by
  intro cfg hc _; simp [encode, edgeOps_request hc, dataOps]

end Sys2Proof.Laws.EncodedIsDone
end

