-- ==== Sys2Proof/Laws/Run.lean ====
section
/-! SUPPORT. The induction over a run, packaged once. -/

namespace Sys2Proof.Laws

/-- What every step keeps holds after any run that it held before. -/
theorem run_keeps {M : Host.Core} {P : M.State → Prop} (keeps : ∀ s t, P s → M.step s = .next t → P t) :
    ∀ (k : Nat) {s t : M.State}, P s → M.run k s = .next t → P t
  | 0, s, t, hs, h => by
    cases h
    exact hs
  | k + 1, s, t, hs, h => by
    simp only [Host.Core.run] at h
    split at h
    · rename_i s' hst
      exact run_keeps keeps k (keeps s s' hs hst) h
    · cases h
    · cases h

end Sys2Proof.Laws
end

