-- ==== Sys2Proof/Laws/State.lean ====
section
/-! SUPPORT. One lemma for each field of State under each update. A register is one field of `State.regs`, and its new value
stands in the update's lemma for `regs`. -/

namespace Sys2Proof.Machine

@[simp] theorem State.setRspValid_regs (s : State) (v : BitVec 1) : (s.setRspValid v).regs = { s.regs with rspValid := v } := rfl
@[simp] theorem State.setRspValid_cfg (s : State) (v : BitVec 1) : (s.setRspValid v).cfg = s.cfg := rfl
@[simp] theorem State.setRspValid_resetSeen (s : State) (v : BitVec 1) : (s.setRspValid v).resetSeen = s.resetSeen := rfl
@[simp] theorem State.setRspValid_program (s : State) (v : BitVec 1) : (s.setRspValid v).program = s.program := rfl
@[simp] theorem State.setRspValid_edgeNo (s : State) (v : BitVec 1) : (s.setRspValid v).edgeNo = s.edgeNo := rfl

@[simp] theorem State.setRspCode_regs (s : State) (v : BitVec 2) : (s.setRspCode v).regs = { s.regs with rspCode := v } := rfl
@[simp] theorem State.setRspCode_cfg (s : State) (v : BitVec 2) : (s.setRspCode v).cfg = s.cfg := rfl
@[simp] theorem State.setRspCode_resetSeen (s : State) (v : BitVec 2) : (s.setRspCode v).resetSeen = s.resetSeen := rfl
@[simp] theorem State.setRspCode_program (s : State) (v : BitVec 2) : (s.setRspCode v).program = s.program := rfl
@[simp] theorem State.setRspCode_edgeNo (s : State) (v : BitVec 2) : (s.setRspCode v).edgeNo = s.edgeNo := rfl

@[simp] theorem State.setRspLen_regs (s : State) (v : Nat) : (s.setRspLen v).regs = { s.regs with rspLen := v } := rfl
@[simp] theorem State.setRspLen_cfg (s : State) (v : Nat) : (s.setRspLen v).cfg = s.cfg := rfl
@[simp] theorem State.setRspLen_resetSeen (s : State) (v : Nat) : (s.setRspLen v).resetSeen = s.resetSeen := rfl
@[simp] theorem State.setRspLen_program (s : State) (v : Nat) : (s.setRspLen v).program = s.program := rfl
@[simp] theorem State.setRspLen_edgeNo (s : State) (v : Nat) : (s.setRspLen v).edgeNo = s.edgeNo := rfl

@[simp] theorem State.setResPreamble_regs (s : State) (v : BitVec 8) : (s.setResPreamble v).regs = { s.regs with resPreamble := v } := rfl
@[simp] theorem State.setResPreamble_cfg (s : State) (v : BitVec 8) : (s.setResPreamble v).cfg = s.cfg := rfl
@[simp] theorem State.setResPreamble_resetSeen (s : State) (v : BitVec 8) : (s.setResPreamble v).resetSeen = s.resetSeen := rfl
@[simp] theorem State.setResPreamble_program (s : State) (v : BitVec 8) : (s.setResPreamble v).program = s.program := rfl
@[simp] theorem State.setResPreamble_edgeNo (s : State) (v : BitVec 8) : (s.setResPreamble v).edgeNo = s.edgeNo := rfl

@[simp] theorem State.setResStatus_regs (s : State) (v : BitVec 8) : (s.setResStatus v).regs = { s.regs with resStatus := v } := rfl
@[simp] theorem State.setResStatus_cfg (s : State) (v : BitVec 8) : (s.setResStatus v).cfg = s.cfg := rfl
@[simp] theorem State.setResStatus_resetSeen (s : State) (v : BitVec 8) : (s.setResStatus v).resetSeen = s.resetSeen := rfl
@[simp] theorem State.setResStatus_program (s : State) (v : BitVec 8) : (s.setResStatus v).program = s.program := rfl
@[simp] theorem State.setResStatus_edgeNo (s : State) (v : BitVec 8) : (s.setResStatus v).edgeNo = s.edgeNo := rfl

@[simp] theorem State.setResTemp_regs (s : State) (v : BitVec 16) : (s.setResTemp v).regs = { s.regs with resTemp := v } := rfl
@[simp] theorem State.setResTemp_cfg (s : State) (v : BitVec 16) : (s.setResTemp v).cfg = s.cfg := rfl
@[simp] theorem State.setResTemp_resetSeen (s : State) (v : BitVec 16) : (s.setResTemp v).resetSeen = s.resetSeen := rfl
@[simp] theorem State.setResTemp_program (s : State) (v : BitVec 16) : (s.setResTemp v).program = s.program := rfl
@[simp] theorem State.setResTemp_edgeNo (s : State) (v : BitVec 16) : (s.setResTemp v).edgeNo = s.edgeNo := rfl

@[simp] theorem State.setResHum_regs (s : State) (v : BitVec 16) : (s.setResHum v).regs = { s.regs with resHum := v } := rfl
@[simp] theorem State.setResHum_cfg (s : State) (v : BitVec 16) : (s.setResHum v).cfg = s.cfg := rfl
@[simp] theorem State.setResHum_resetSeen (s : State) (v : BitVec 16) : (s.setResHum v).resetSeen = s.resetSeen := rfl
@[simp] theorem State.setResHum_program (s : State) (v : BitVec 16) : (s.setResHum v).program = s.program := rfl
@[simp] theorem State.setResHum_edgeNo (s : State) (v : BitVec 16) : (s.setResHum v).edgeNo = s.edgeNo := rfl

@[simp] theorem State.setResPress_regs (s : State) (v : BitVec 18) : (s.setResPress v).regs = { s.regs with resPress := v } := rfl
@[simp] theorem State.setResPress_cfg (s : State) (v : BitVec 18) : (s.setResPress v).cfg = s.cfg := rfl
@[simp] theorem State.setResPress_resetSeen (s : State) (v : BitVec 18) : (s.setResPress v).resetSeen = s.resetSeen := rfl
@[simp] theorem State.setResPress_program (s : State) (v : BitVec 18) : (s.setResPress v).program = s.program := rfl
@[simp] theorem State.setResPress_edgeNo (s : State) (v : BitVec 18) : (s.setResPress v).edgeNo = s.edgeNo := rfl

@[simp] theorem State.setResVbat_regs (s : State) (v : BitVec 9) : (s.setResVbat v).regs = { s.regs with resVbat := v } := rfl
@[simp] theorem State.setResVbat_cfg (s : State) (v : BitVec 9) : (s.setResVbat v).cfg = s.cfg := rfl
@[simp] theorem State.setResVbat_resetSeen (s : State) (v : BitVec 9) : (s.setResVbat v).resetSeen = s.resetSeen := rfl
@[simp] theorem State.setResVbat_program (s : State) (v : BitVec 9) : (s.setResVbat v).program = s.program := rfl
@[simp] theorem State.setResVbat_edgeNo (s : State) (v : BitVec 9) : (s.setResVbat v).edgeNo = s.edgeNo := rfl

@[simp] theorem State.setResCrc_regs (s : State) (v : BitVec 8) : (s.setResCrc v).regs = { s.regs with resCrc := v } := rfl
@[simp] theorem State.setResCrc_cfg (s : State) (v : BitVec 8) : (s.setResCrc v).cfg = s.cfg := rfl
@[simp] theorem State.setResCrc_resetSeen (s : State) (v : BitVec 8) : (s.setResCrc v).resetSeen = s.resetSeen := rfl
@[simp] theorem State.setResCrc_program (s : State) (v : BitVec 8) : (s.setResCrc v).program = s.program := rfl
@[simp] theorem State.setResCrc_edgeNo (s : State) (v : BitVec 8) : (s.setResCrc v).edgeNo = s.edgeNo := rfl

@[simp] theorem State.setResPct_regs (s : State) (v : BitVec 7) : (s.setResPct v).regs = { s.regs with resPct := v } := rfl
@[simp] theorem State.setResPct_cfg (s : State) (v : BitVec 7) : (s.setResPct v).cfg = s.cfg := rfl
@[simp] theorem State.setResPct_resetSeen (s : State) (v : BitVec 7) : (s.setResPct v).resetSeen = s.resetSeen := rfl
@[simp] theorem State.setResPct_program (s : State) (v : BitVec 7) : (s.setResPct v).program = s.program := rfl
@[simp] theorem State.setResPct_edgeNo (s : State) (v : BitVec 7) : (s.setResPct v).edgeNo = s.edgeNo := rfl

@[simp] theorem State.doReset_regs (s : State) : (s.doReset).regs = resetRegs := rfl
@[simp] theorem State.doReset_cfg (s : State) : (s.doReset).cfg = s.cfg := rfl
@[simp] theorem State.doReset_resetSeen (s : State) : (s.doReset).resetSeen = true := rfl
@[simp] theorem State.doReset_program (s : State) : (s.doReset).program = s.program := rfl
@[simp] theorem State.doReset_edgeNo (s : State) : (s.doReset).edgeNo = s.edgeNo := rfl

@[simp] theorem State.raiseInsufficientInput_regs (s : State) (n : Nat) : (s.raiseInsufficientInput n).regs = failureRegs n := rfl
@[simp] theorem State.raiseInsufficientInput_cfg (s : State) (n : Nat) : (s.raiseInsufficientInput n).cfg = s.cfg := rfl
@[simp] theorem State.raiseInsufficientInput_resetSeen (s : State) (n : Nat) : (s.raiseInsufficientInput n).resetSeen = s.resetSeen := rfl
@[simp] theorem State.raiseInsufficientInput_program (s : State) (n : Nat) : (s.raiseInsufficientInput n).program = s.program := rfl
@[simp] theorem State.raiseInsufficientInput_edgeNo (s : State) (n : Nat) : (s.raiseInsufficientInput n).edgeNo = s.edgeNo := rfl

@[simp] theorem State.pastEdge_regs (s : State) : (s.pastEdge).regs = s.regs := rfl
@[simp] theorem State.pastEdge_cfg (s : State) : (s.pastEdge).cfg = s.cfg := rfl
@[simp] theorem State.pastEdge_resetSeen (s : State) : (s.pastEdge).resetSeen = s.resetSeen := rfl
@[simp] theorem State.pastEdge_program (s : State) : (s.pastEdge).program = s.program.tail := rfl
@[simp] theorem State.pastEdge_edgeNo (s : State) : (s.pastEdge).edgeNo = s.edgeNo + 1 := rfl

@[simp] theorem State.withEdge_regs (s : State) (e : Edge) : (s.withEdge e).regs = s.regs := rfl
@[simp] theorem State.withEdge_cfg (s : State) (e : Edge) : (s.withEdge e).cfg = s.cfg := rfl
@[simp] theorem State.withEdge_resetSeen (s : State) (e : Edge) : (s.withEdge e).resetSeen = s.resetSeen := rfl
@[simp] theorem State.withEdge_program (s : State) (e : Edge) : (s.withEdge e).program = e :: s.program.tail := rfl
@[simp] theorem State.withEdge_edgeNo (s : State) (e : Edge) : (s.withEdge e).edgeNo = s.edgeNo := rfl

@[simp] theorem State.latch_success_regs (s : State) (len : Nat) (f : Measurement) :
    (s.latch len (.success f)).regs = successRegs len f := rfl
@[simp] theorem State.latch_failure_regs (s : State) (len got : Nat) :
    (s.latch len (.failure got)).regs = failureRegs got := rfl
@[simp] theorem State.latch_cfg (s : State) (len : Nat) (r : DecodeResult) : (s.latch len r).cfg = s.cfg := by
  cases r <;> rfl
@[simp] theorem State.latch_resetSeen (s : State) (len : Nat) (r : DecodeResult) : (s.latch len r).resetSeen = s.resetSeen := by
  cases r <;> rfl
@[simp] theorem State.latch_program (s : State) (len : Nat) (r : DecodeResult) : (s.latch len r).program = s.program := by
  cases r <;> rfl
@[simp] theorem State.latch_edgeNo (s : State) (len : Nat) (r : DecodeResult) : (s.latch len r).edgeNo = s.edgeNo := by
  cases r <;> rfl

end Sys2Proof.Machine
end

