-- ==== Sys2Proof/Laws/Step.lean ====
section
/-! SUPPORT. What each cycle operation and one step can do, said once. -/

namespace Sys2Proof.Machine

@[simp] theorem State.sample_withEdge (s : State) (e : Edge) : (s.withEdge e).sample = e := rfl

@[simp] theorem State.sample_cons {s : State} {e : Edge} {rest : List Edge} (h : s.program = e :: rest) :
    s.sample = e := by
  simp [State.sample, h]

/-! ### Each operation's outcome, so that no proof unfolds `exec` -/

@[simp] theorem exec_reset (s : State) : exec .reset s = .next s.doReset := rfl
@[simp] theorem exec_decode (len : Nat) (l : LaneLevels) (s : State) : exec (.decode len l) s = execDecode len l s := rfl
@[simp] theorem exec_idle (s : State) : exec .idle s = .next (s.setRspValid 0) := rfl
@[simp] theorem exec_opLenchk (len : Nat) (s : State) :
    exec (.opLenchk len) s = .next ((s.setRspLen len).setRspCode (lenCode len)) := rfl
@[simp] theorem exec_opPreamble (p : Byte) (s : State) : exec (.opPreamble p) s = .next (s.setResPreamble p) := rfl
@[simp] theorem exec_opStatus (st : Byte) (s : State) : exec (.opStatus st) s = .next (s.setResStatus st) := rfl
@[simp] theorem exec_opTemp (lo hi : Byte) (s : State) :
    exec (.opTemp lo hi) s = .next (s.setResTemp (BitVec.ofInt 16 (tempCode lo hi))) := rfl
@[simp] theorem exec_opHum (lo hi : Byte) (s : State) :
    exec (.opHum lo hi) s = .next (s.setResHum (BitVec.ofNat 16 (humCode lo hi))) := rfl
@[simp] theorem exec_opPress (lo hi : Byte) (s : State) :
    exec (.opPress lo hi) s = .next (s.setResPress (BitVec.ofNat 18 (pressCode lo hi))) := rfl
@[simp] theorem exec_opVbat (v : Byte) (s : State) :
    exec (.opVbat v) s = .next (s.setResVbat (BitVec.ofNat 9 (vbatCode v))) := rfl
@[simp] theorem exec_opBattpct (v : Byte) (s : State) :
    exec (.opBattpct v) s = .next (s.setResPct (BitVec.ofNat 7 (battPct s.cfg.battPctMode v))) := rfl
@[simp] theorem exec_opCrc (c : Byte) (s : State) : exec (.opCrc c) s = .next (s.setResCrc c) := rfl

theorem execDecode_short {len : Nat} (l : LaneLevels) (s : State) (h : len < 10) :
    execDecode len l s = .next (s.raiseInsufficientInput len) := by
  have : ¬ 10 ≤ len := by omega
  simp [execDecode, lenOk, this, State.latch]

theorem execDecode_long {len : Nat} (f : Frame) (s : State) (h : 10 ≤ len) :
    execDecode len f.levels s = .next (s.latch len (.success (measureFrame s.cfg.battPctMode f))) := by
  simp [execDecode, decodeFrame, lenOk, h]

/-- All that a DECODE can do: the failure output, the latched record of its bytes, or, with an undriven lane it reads, a
refusal. -/
theorem execDecode_cases (len : Nat) (l : LaneLevels) (s : State) :
    (len < 10 ∧ execDecode len l s = .next (s.raiseInsufficientInput len)) ∨
    (10 ≤ len ∧ ∃ f : Frame, l = f.levels ∧
      execDecode len l s = .next (s.latch len (.success (measureFrame s.cfg.battPctMode f)))) ∨
    (10 ≤ len ∧ l.driven = false ∧ execDecode len l s = .refused (.badEdge (.undefinedInput .reqFrame))) := by
  rcases Nat.lt_or_ge len 10 with h | h
  · exact .inl ⟨h, execDecode_short l s h⟩
  · by_cases hd : l.driven = true
    · obtain ⟨f, rfl⟩ := Lanes.exists_levels_of_driven hd
      exact .inr (.inl ⟨h, f, rfl, execDecode_long f s h⟩)
    · have hb : l.bytes? = none := Lanes.bytes?_eq_none_iff.mpr (by simpa using hd)
      exact .inr (.inr ⟨h, by simpa using hd, by simp [execDecode, lenOk, h, hb]⟩)

/-- A step is the operation of the sampled edge. -/
theorem step_of_decodeEdge {s : State} {i : Instr} (h : decodeEdge s.cfg s.sample = .ok i) :
    step s = exec i s.pastEdge := by
  simp [step, h]

/-- All that a step which gives a next state can have done: one of the three cycle operations, and the edge is past. -/
theorem step_next {s t : State} (h : step s = .next t) :
    t = s.pastEdge.doReset ∨ t = s.pastEdge.setRspValid 0 ∨
    (∃ len, len < 10 ∧ len < 2 ^ s.cfg.lenW ∧ t = s.pastEdge.raiseInsufficientInput len) ∨
    (∃ len, 10 ≤ len ∧ len < 2 ^ s.cfg.lenW ∧ ∃ f : Frame,
      t = s.pastEdge.latch len (.success (measureFrame s.cfg.battPctMode f))) := by
  rcases hd : decodeEdge s.cfg s.sample with e | i
  · simp [step, hd] at h
  · rw [step_of_decodeEdge hd] at h
    rcases decodeEdge_ok hd with ⟨_, rfl⟩ | ⟨_, _, rfl⟩ | ⟨len, _, rfl, hn, _⟩
    · simp at h
      exact .inl h.symm
    · simp at h
      exact .inr (.inl h.symm)
    · rw [exec_decode] at h
      rcases execDecode_cases len s.sample.reqFrame s.pastEdge with ⟨hl, he⟩ | ⟨hl, f, _, he⟩ | ⟨_, _, he⟩ <;>
        rw [he] at h
      · exact .inr (.inr (.inl ⟨len, hl, hn, by simpa using h.symm⟩))
      · exact .inr (.inr (.inr ⟨len, hl, hn, f, by simpa using h.symm⟩))
      · simp at h

/-- A read of a port of a machine after a success gives what the hardware drives. -/
theorem hostRead_ok {s : State} {p : OutPort} (hr : s.resetSeen = true) (hc : s.regs.rspCode = codeOk) :
    hostRead s p = .ok (portLevel s p) := by
  simp [hostRead, hr, hc, codeOk]

end Sys2Proof.Machine
end

