-- ==== Sys2Proof/Tests/Slice0.lean ====
section
/-! SUPPORT. Tests. Each expected value is from the spec's worked examples and tables (spec/95_test_vectors.md, cited as V and P)
or from a rule's own corner cases. The theorems named `witness_` show states and operands that meet the hypotheses of a
statement of Certificates/Slice0/Obligations.lean, clause by clause and at the clauses' boundaries. -/

namespace Sys2Proof.Tests

open Sys2Proof.Machine

/-! ### Helpers -/

/-- The outcome is a next state with the property. -/
def gives (o : Host.Outcome State Fault Refusal) (p : State → Bool) : Bool :=
  match o with
  | .next t => p t
  | .fault _ => false
  | .refused _ => false

/-- The outcome is that refusal. -/
def refuses (o : Host.Outcome State Fault Refusal) (r : Refusal) : Bool :=
  match o with
  | .next _ => false
  | .fault _ => false
  | .refused r' => r == r'

/-- Frames of V19. -/
def f1 : Frame := ⟨0x01, 0x02, 0x10, 0x00, 0x20, 0x00, 0x30, 0x00, 0x96, 0xAB⟩
def f2 : Frame := ⟨0x7F, 0x80, 0x00, 0x80, 0xFF, 0xFF, 0xFF, 0xFF, 0xFF, 0x00⟩
def f3 : Frame := ⟨0xAA, 0x55, 0x0C, 0xFE, 0x10, 0x27, 0xB4, 0x5F, 0x4E, 0x5A⟩

/-- F1's result of V19, with its pulse. -/
def r1 : Regs := ⟨1, 0b01, 10, 0x01, 0x02, 0x0010, 0x0020, 80048, 350, 0xAB, 63⟩

def s1 : State := { State.reset with regs := r1 }

/-- A machine with the other `BATT_PCT_MODE`s. -/
def sDoc : State := { State.reset with cfg := { battPctMode := .docBinary64 } }
def sTie : State := { State.reset with cfg := { battPctMode := .tieDraw } }

/-- A machine not yet reset, whose flip-flops came up with `RSP_CODE = 0b11` (R192). -/
def sUp : State := State.powerUp {} { r1 with rspCode := 0b11 } []

/-- A lane left undriven. -/
def holed (f : Frame) : LaneLevels := { f.levels with b9 := none }

/-! ### Ill-formed terms are refused -/

theorem test_wf_lenW_too_small : ¬ ({ lenW := 3 } : Config).wf := by decide
theorem test_wf_lenW_least : ({ lenW := 4 } : Config).wf := by decide
theorem test_wf_decode_length_too_wide : (Instr.decode 256 f1.levels).wf {} = false := by decide
theorem test_wf_decode_lane_undriven : (Instr.decode 10 (holed f1)).wf {} = false := by decide
theorem test_wf_decode_short_needs_no_lane : (Instr.decode 9 (Lanes.all none)).wf {} = true := by decide
theorem test_wf_lenchk_too_wide : (Instr.opLenchk 256).wf {} = false := by decide
theorem test_edge_length_too_wide : decodeEdge {} (requestEdge 256 f1.levels) = .error .lenTooWide := by rfl

/-! ### Decoding, from words written out -/

/-- R72: RESET is `ctl = 0b1-`. -/
theorem test_decode_reset : decodeTableWord 8 0b10 = some .reset ∧ decodeTableWord 8 0b11 = some .reset := by decide
/-- R72: IDLE is `ctl = 0b00`. -/
theorem test_decode_idle : decodeTableWord 8 0b00 = some .idle := by decide
/-- P1, edge 2: `ctl=0b01 len=10 frame=0xAB960030002000100201`. -/
theorem test_decode_decode :
    decodeTableWord 96 (0xAB960030002000100201 <<< 10 ||| 10 <<< 2 ||| 0b01) = some (.decode 10 f1.levels) := by decide
/-- R74's field layout on F3's bus word `0x5A4E5FB42710FE0C55AA` (V19): every field operation and its bytes. -/
theorem test_decode_field_operations :
    edgeOps {} (Edge.ofWord {} (0x5A4E5FB42710FE0C55AA <<< 10 ||| 255 <<< 2 ||| 0b01)) =
      [.decode 255 f3.levels, .opLenchk 255, .opPreamble 0xAA, .opStatus 0x55, .opTemp 0x0C 0xFE, .opHum 0x10 0x27,
        .opPress 0xB4 0x5F, .opVbat 0x4E, .opBattpct 0x4E, .opCrc 0x5A] := by decide
/-- R79: a short request does OP_LENCHK only. -/
theorem test_decode_short_operations :
    edgeOps {} (Edge.ofWord {} (9 <<< 2 ||| 0b01)) = [.decode 9 (Lanes.all 0).levels, .opLenchk 9] := by decide
/-- R71's example, packed. -/
theorem test_pack : f1.pack = 0xAB960030002000100201 := by decide
/-- The word of F2 (V19), encoded. -/
theorem test_encode_word :
    encodeWord {} (.decode 10 f2.levels) = 0x00FFFFFFFFFF8000807F <<< 10 ||| 10 <<< 2 ||| 0b01 := by decide
/-- R84: `WAIT 2` is two IDLE lines, and a DECODE without `len=` has length 10. -/
theorem test_notation :
    (Line.wait 2).edges = [encode .idle, encode .idle] ∧ (Line.decode none f1.levels).edges = [requestEdge 10 f1.levels] ∧
    (Line.reset (requestEdge 10 f3.levels)).edges.map (decodeEdge {}) = [.ok .reset] := ⟨rfl, rfl, rfl⟩

/-! ### The cycle operations -/

/-- P3, edge 3: RESET with F3 presented drops the request. -/
theorem test_reset_drops_request :
    gives (step (s1.withEdge { requestEdge 10 f3.levels with rst := some true })) (fun t => t.regs == State.reset.regs) := by
  decide
/-- V18: RESET from a machine that was never reset. -/
theorem test_reset_boots : gives (exec .reset sUp) (fun t => t.resetSeen && t.regs == State.reset.regs) := by decide
/-- V19, F1. -/
theorem test_decode_f1 : gives (exec (.decode 10 f1.levels) State.reset) (fun t => t.regs == r1) := by decide
/-- P2, edge 3: 9 bytes fail after a success, with the last lane undriven. -/
theorem test_decode_short :
    gives (exec (.decode 9 (holed f1)) s1) (fun t => t.regs == ⟨1, 0b10, 9, 0, 0, 0, 0, 0, 0, 0, 0⟩) := by decide
/-- P1, edge 3. -/
theorem test_idle : gives (exec .idle s1) (fun t => t.regs == { r1 with rspValid := 0 }) := by decide
/-- A short run from the word placed as the first instruction after reset. -/
theorem test_placed_word :
    gives (step (State.reset.withFetchWord 96 (0x5A4E5FB42710FE0C55AA <<< 10 ||| 255 <<< 2 ||| 0b01)))
      (fun t => t.regs.rspLen == 255 && t.regs.resPress == 104500 && t.regs.resPct == 18) := by decide

/-! ### The field operations (V10 to V17) -/

theorem test_lenchk : gives (exec (.opLenchk 9) s1) (fun t => t.regs.rspCode == 0b10 && t.regs.rspLen == 9) ∧
    gives (exec (.opLenchk 10) s1) (fun t => t.regs.rspCode == 0b01 && t.regs.rspLen == 10) := by decide
theorem test_preamble : gives (exec (.opPreamble 0x80) s1) (fun t => t.regs == { r1 with resPreamble := 0x80 }) := by decide
theorem test_status : gives (exec (.opStatus 0x7F) s1) (fun t => t.regs == { r1 with resStatus := 0x7F }) := by decide
/-- V11: `0C FE` is -500, `00 80` is -32768. -/
theorem test_temp_negative : gives (exec (.opTemp 0x0C 0xFE) s1) (fun t => t.regs.resTemp.toInt == -500) ∧
    gives (exec (.opTemp 0x00 0x80) s1) (fun t => t.regs.resTemp.toInt == -32768) := by decide
/-- V11: `FF 7F` is 32767. -/
theorem test_temp_greatest : gives (exec (.opTemp 0xFF 0x7F) s1) (fun t => t.regs.resTemp.toInt == 32767) := by decide
/-- V12: `00 80` is 32768, no sign extension. -/
theorem test_hum : gives (exec (.opHum 0x00 0x80) s1) (fun t => t.regs.resHum == 32768) := by decide
/-- V13: `B4 5F` is 104500, `FF FF` is 145535. -/
theorem test_press : gives (exec (.opPress 0xB4 0x5F) s1) (fun t => t.regs.resPress == 104500) ∧
    gives (exec (.opPress 0xFF 0xFF) s1) (fun t => t.regs.resPress == 145535) := by decide
/-- V14: 0xFF is 455. -/
theorem test_vbat : gives (exec (.opVbat 0xFF) s1) (fun t => t.regs.resVbat == 455) := by decide
/-- V15: under EXACT 150 is 63, under DOC_BINARY64 78 is 17. -/
theorem test_battpct : gives (exec (.opBattpct 150) s1) (fun t => t.regs.resPct == 63) ∧
    gives (exec (.opBattpct 78) sDoc) (fun t => t.regs.resPct == 17) := by decide
/-- V15's rows under EXACT, in order. -/
theorem test_battpct_corners :
    [0, 6, 46, 49, 50, 51, 53, 54, 55, 78, 86, 100, 150, 170, 206, 209, 210, 211, 255].map (battPct .exactForm) =
      [0, 0, 0, 0, 0, 1, 2, 3, 3, 18, 23, 31, 63, 75, 98, 99, 100, 100, 100] := by decide
theorem test_crc : gives (exec (.opCrc 0x5A) s1) (fun t => t.regs == { r1 with resCrc := 0x5A }) := by decide

/-! ### Outputs -/

/-- R77: with `LEN_W = 8` the response is 101 bits, and `rsp_warn` and `req_ready` are one more each (R70). -/
theorem test_response_width :
    ([OutPort.rspValid, .rspCode, .rspLen, .resPreamble, .resStatus, .resTemp, .resHum, .resPress, .resVbat, .resCrc,
      .resPct].map (OutPort.width {})).sum = 101 := by decide
/-- The temperature code of F3 is read as -500 (V19). -/
theorem test_read_temperature : hostReadTemperature { s1 with regs := { r1 with resTemp := 0xFE0C } } = .ok (-500) := by rfl
theorem test_read_after_reset : hostRead State.reset .resTemp = .error .noMeasurement := by rfl

/-! ### Witnesses -/

theorem witness_ResetClearsEveryRegister : (s1.withEdge (encode .reset)).sample.rst = some true := by rfl
theorem witness_ResetValuesAsListed : ∃ t : State, exec .reset s1 = .next t := ⟨_, rfl⟩
/-- Both clauses, at the lengths where they meet, and with bit 15 of the temperature 0 and 1. -/
theorem witness_DecodeLatchesItsResult :
    s1.resetSeen = true ∧ 10 ≤ 10 ∧ 9 < 10 ∧ ¬ 128 ≤ f1.b3.toNat ∧ 128 ≤ f2.b3.toNat := by decide
theorem witness_ShortRequestFailsWholly : s1.resetSeen = true ∧ 9 < 10 := by decide
theorem witness_IdleOnlyEndsThePulse : s1.resetSeen = true := by decide
theorem witness_LengthCheckSetsCodeAndCount : s1.resetSeen = true ∧ 10 ≤ 10 ∧ 9 < 10 := by decide
theorem witness_VerbatimBytesPassThrough : s1.resetSeen = true ∧ 10 ≤ 10 := by decide
theorem witness_TemperatureIsSignExtendedPair :
    s1.resetSeen = true ∧ (0x7FFF : BitVec 16).getLsbD 15 = false ∧ (0x8000 : BitVec 16).getLsbD 15 = true := by decide
theorem witness_HumidityIsUnsignedPair : s1.resetSeen = true := by decide
theorem witness_PressureIsPairPlusOffset : s1.resetSeen = true := by decide
theorem witness_VoltageIsBytePlusOffset : s1.resetSeen = true := by decide
theorem witness_PercentageIsTheFormula : s1.resetSeen = true ∧ s1.cfg.battPctMode = .exactForm := by decide
/-- Every clause: off the ties (53), EXACT, DOC_BINARY64 at and off its two bytes, TIE_DRAW at the first and the last tie. -/
theorem witness_PercentageInEachMode :
    s1.resetSeen = true ∧ isTie 53 = false ∧ s1.cfg.battPctMode = .exactForm ∧
    sDoc.resetSeen = true ∧ sDoc.cfg.battPctMode = .docBinary64 ∧ (54 : Byte) ≠ 78 ∧ (54 : Byte) ≠ 86 ∧
    sTie.resetSeen = true ∧ sTie.cfg.battPctMode = .tieDraw ∧ (54 : Byte).toNat = 54 + 8 * 0 ∧
    (206 : Byte).toNat = 54 + 8 * 19 := by decide
theorem witness_IntegerFormEqualsFormula : 200 ≤ 200 ∧ 200 ≤ 455 ∧ 200 ≤ 455 ∧ 455 ≤ 455 := by decide
theorem witness_TieInputsAreTheListed :
    (54 : Byte).toNat = 54 + 8 * 0 ∧ (206 : Byte).toNat = 54 + 8 * 19 ∧ (6 : Byte).toNat ∈ [6, 14, 22, 30, 38, 46] := by decide
theorem witness_PercentageBoundsAndOrder :
    210 ≤ (210 : Byte).toNat ∧ (50 : Byte).toNat ≤ 50 ∧ (53 : Byte).toNat ≤ (54 : Byte).toNat := by decide
theorem witness_PercentageClosedForm :
    (50 : Byte).toNat ≤ 50 ∧ 51 ≤ (51 : Byte).toNat ∧ (210 : Byte).toNat ≤ 210 ∧ 211 ≤ (211 : Byte).toNat := by decide
theorem witness_HostReadsTheDecodedFrame : s1.resetSeen = true ∧ s1.cfg.battPctMode = .exactForm := by decide
theorem witness_DecodeIsItsFieldOperations : s1.resetSeen = true ∧ 10 ≤ 10 ∧ 9 < 10 := by decide
theorem witness_FieldOrderDoesNotMatter : s1.resetSeen = true ∧ (dataOps f1).reverse.Perm (dataOps f1) :=
  ⟨rfl, List.reverse_perm _⟩
/-- Two frames that agree on some fields and differ on others. -/
theorem witness_EachFieldReadsItsOwnBytes :
    s1.resetSeen = true ∧ 10 ≤ 10 ∧ f1.b0 = ({ f1 with b8 := 0 } : Frame).b0 ∧ f1.b9 = ({ f1 with b8 := 0 } : Frame).b9 ∧
    f1.b8 = ({ f1 with b0 := 0 } : Frame).b8 ∧ f1 ≠ { f1 with b8 := 0 } := by decide
theorem witness_DecodeForgetsThePast :
    s1.resetSeen = true ∧
    (∃ t, Host.Core.run Sys2Proof.core 1 (s1.withEdge (encode .idle)) = .next t) ∧
    (Instr.decode 10 f1.levels).wf s1.cfg = true ∧ (Instr.decode 9 (Lanes.all none)).wf s1.cfg = true :=
  ⟨rfl, ⟨_, rfl⟩, rfl, rfl⟩
/-- P3, edges 5 and 6. -/
theorem witness_BackToBackReplacesWholly :
    ∃ s : State, s.resetSeen = true ∧ s.program = [requestEdge 255 f3.levels, requestEdge 10 f1.levels] ∧
      (Instr.decode 255 f3.levels).wf s.cfg = true ∧ (Instr.decode 10 f1.levels).wf s.cfg = true :=
  ⟨{ s1 with program := [requestEdge 255 f3.levels, requestEdge 10 f1.levels] }, rfl, rfl, rfl, rfl⟩
theorem witness_DecodeRefusesUndefinedLanes : 10 ≤ 10 ∧ (holed f1).driven = false ∧
    refuses (exec (.decode 10 (holed f1)) s1) (.badEdge (.undefinedInput .reqFrame)) := by decide
theorem witness_StepRunsTheSampledOperation :
    decodeEdge {} (s1.withEdge (requestEdge 10 f1.levels)).sample = .ok (.decode 10 f1.levels) ∧
    decodeEdge {} (s1.withEdge ⟨none, none, none, Lanes.all none⟩).sample = .error (.undefinedInput .rst) ∧
    (s1.withEdge (encode .idle)).program = [encode .idle] := ⟨rfl, rfl, rfl⟩
theorem witness_ControlWordSelectsOperation : 255 < 2 ^ ({} : Config).lenW := by decide
/-- An edge whose read inputs are all defined, and, for each input, one at which it alone is read and undefined. -/
theorem witness_EdgesCompleteExactlyWhenDefined :
    (∀ p, (encode .idle).reads p → (encode .idle).defined p) ∧
    (∀ n, (encode .idle).reqLen = some n → n < 2 ^ ({} : Config).lenW) ∧
    (∀ n, (requestEdge 10 (holed f1)).reqLen = some n → n < 2 ^ ({} : Config).lenW) ∧
    (requestEdge 10 (holed f1)).reads .reqFrame ∧ ¬ (requestEdge 10 (holed f1)).defined .reqFrame := by
  refine ⟨fun p => ?_, fun n => ?_, fun n h => ?_, ⟨rfl, rfl, 10, rfl, by decide⟩, ?_⟩
  · cases p <;> simp [Edge.reads, Edge.defined, encode]
  · simp [encode]
  · cases h; decide
  · change ¬ (holed f1).driven = true
    decide
theorem witness_UnlistedEdgesComplete : State.reset.program = [] := by rfl
/-- F1 and F2 under one short length, at a reset edge, and at an idle edge. -/
theorem witness_UnreadInputsHaveNoEffect :
    (requestEdge 9 f1.levels).sameRead (requestEdge 9 (Lanes.all none)) ∧
    (encode .reset).sameRead { requestEdge 10 f1.levels with rst := some true } ∧
    (encode .idle).sameRead { requestEdge 10 f1.levels with reqValid := some false } := by
  refine ⟨⟨rfl, fun _ => ⟨rfl, fun _ => ⟨rfl, ?_⟩⟩⟩, ⟨rfl, ?_⟩, ⟨rfl, fun _ => ⟨rfl, ?_⟩⟩⟩
  · intro n h; cases h; decide
  · intro h; cases h
  · intro h; cases h
theorem witness_PulseMarksAcceptingEdges :
    gives (step (State.reset.withEdge (requestEdge 10 f1.levels))) (fun t => t.resetSeen && t.regs.rspValid == 1) ∧
    gives (step (s1.withEdge (encode .idle))) (fun t => t.resetSeen && t.regs.rspValid == 0) := by decide
/-- All three clauses. -/
theorem witness_CountIsOfTheLastRequest :
    gives (step (s1.withEdge (encode .reset))) (fun t => t.resetSeen && t.regs.rspLen == 0) ∧
    gives (step (s1.withEdge (encode .idle))) (fun t => t.resetSeen && t.regs.rspLen == 10) ∧
    gives (step (s1.withEdge (requestEdge 255 f3.levels))) (fun t => t.resetSeen && t.regs.rspLen == 255) := by decide
theorem witness_ReservedCodeNeverProduced :
    gives (step (sUp.withEdge (encode .idle))) (fun t => t.regs.rspCode == 0b11) := by decide
/-- One operation of each kind that gives a next state, RESET the one that records a reset. -/
theorem witness_OperationsChangeRegistersOnly :
    gives (exec .reset sUp) (fun t => t.resetSeen) ∧ gives (exec .idle sUp) (fun t => !t.resetSeen) ∧
    gives (exec (.opCrc 0) s1) (fun t => t.resetSeen) := by decide
/-- A machine that holds a success, and one that holds a failure, both with a step that completes. -/
theorem witness_StepKeepsTheInvariant :
    (s1.withEdge (encode .idle)).Inv ∧ (∃ t, step (s1.withEdge (encode .idle)) = .next t) ∧
    ({ State.reset with regs := failureRegs 9 } : State).Inv :=
  ⟨⟨by decide, by decide, fun _ => .inr (.inr ⟨1, 10, f1, by decide, by decide⟩)⟩, ⟨_, rfl⟩,
    ⟨by decide, by decide, fun _ => .inr (.inl ⟨1, 9, by decide, rfl⟩)⟩⟩
theorem witness_InvariantHoldsAtResetAndPowerUp : ({} : Config).wf ∧ r1.rspLen < 2 ^ ({} : Config).lenW := by decide
theorem witness_MeasurementsLieInTheirRanges : s1.Inv ∧ s1.resetSeen = true ∧ s1.regs.rspCode = 0b01 :=
  ⟨⟨by decide, by decide, fun _ => .inr (.inr ⟨1, 10, f1, by decide, by decide⟩)⟩, rfl, rfl⟩
/-- Every clause. -/
theorem witness_ReadsGiveValuesWhereTheyExist :
    OutPort.rspLen.isConstant = false ∧ sUp.resetSeen = false ∧ ({ sUp with resetSeen := true } : State).regs.rspCode = 0b11 ∧
    OutPort.resPct.isResult = true ∧ State.reset.resetSeen = true ∧ State.reset.regs.rspCode = 0b00 ∧
    ({ State.reset with regs := failureRegs 9 } : State).regs.rspCode = 0b10 ∧ s1.resetSeen = true ∧
    s1.regs.rspCode = 0b01 ∧ s1.regs.rspCode ≠ 0b11 := by decide
theorem witness_RequestWordRoundTrip :
    ({} : Config).wf ∧ (Instr.decode 255 f3.levels).wf {} = true ∧ f3.levels.driven = true ∧ (Instr.opTemp 0xFF 0x80).wf {} = true ∧
    (Instr.opLenchk 255).wf {} = true := by decide
theorem witness_PlacedWordIsRun : s1.cfg = {} ∧ decodeTableWord 8 0b10 = some .reset := by decide
/-- Counts below, at and above what four wires carry. -/
theorem witness_SaturatedLengthKeepsTheTest :
    ({ lenW := 4 } : Config).wf ∧ 15 < 2 ^ ({ lenW := 4 } : Config).lenW ∧ 2 ^ ({ lenW := 4 } : Config).lenW ≤ 16 := by decide

end Sys2Proof.Tests
end

/-! PROOF. The frame of every operation: which fields of the state outside the registers it writes. -/

namespace Sys2Proof.Machine

/-- A latched result, success or failure, goes to the registers alone (R103). -/
theorem State.latch_eq_with_regs (s : State) (len : Nat) (r : DecodeResult) :
    s.latch len r = { s with regs := (s.latch len r).regs } := by
  cases r <;> rfl

/-- A DECODE that completes writes the registers alone. -/
theorem execDecode_next_frame {len : Nat} {l : LaneLevels} {s t : State} (h : execDecode len l s = .next t) :
    t = { s with regs := t.regs } := by
  rcases execDecode_cases len l s with ⟨_, he⟩ | ⟨_, f, _, he⟩ | ⟨_, _, he⟩
  · cases he.symm.trans h
    rfl
  · cases he.symm.trans h
    exact s.latch_eq_with_regs len _
  · cases he.symm.trans h

/-- All that an operation which gives a next state can do outside the registers: RESET sets the record of a reset (R105),
and every other operation writes registers alone (R58). -/
theorem exec_next_frame {i : Instr} {s t : State} (h : exec i s = .next t) :
    (i = .reset ∧ t = s.doReset) ∨ (i ≠ .reset ∧ t = { s with regs := t.regs }) := by
  cases i with
  | reset =>
    cases h
    exact .inl ⟨rfl, rfl⟩
  | decode len l => exact .inr ⟨nofun, execDecode_next_frame h⟩
  -- IDLE and the field operations: each is a write of named registers
  | _ =>
    cases h
    exact .inr ⟨nofun, rfl⟩

/-- Settles O34, from the frame of every operation: RESET on one side, the operations that write registers alone on the
other. -/
theorem operationsChangeRegistersOnly : Obligations.OperationsChangeRegistersOnly := by
  intro i s t h
  rcases exec_next_frame h with ⟨hi, rfl⟩ | ⟨hi, ht⟩
  · exact ⟨rfl, by simp [hi]⟩
  · have hseen : t.resetSeen = s.resetSeen := by rw [ht]
    exact ⟨by rw [hseen]; exact ht, by simp [hseen, hi]⟩

end Sys2Proof.Machine

/-! PROOF. What a step does to the response registers, by the edge it samples; when a read of a port gives a value; and the
invariant of the machine with the ranges it gives the measurements. -/

namespace Sys2Proof.Machine

/-! ### One step, by the edge it samples -/

/-- All that a step which gives a next state can have done, by the levels it sampled (R72, R102). -/
theorem step_next_sampled {s t : State} (h : step s = .next t) :
    (s.sample.rst = some true ∧ t = s.pastEdge.doReset) ∨
    (s.sample.rst = some false ∧ s.sample.reqValid = some false ∧ t = s.pastEdge.setRspValid 0) ∨
    (∃ len, s.sample = requestEdge len s.sample.reqFrame ∧ execDecode len s.sample.reqFrame s.pastEdge = .next t) := by
  rcases hd : decodeEdge s.cfg s.sample with e | i
  · simp [step, hd] at h
  · rw [step_of_decodeEdge hd] at h
    rcases decodeEdge_ok hd with ⟨hr, rfl⟩ | ⟨hr, hv, rfl⟩ | ⟨len, he, rfl, _, _⟩
    · cases h
      exact .inl ⟨hr, rfl⟩
    · cases h
      exact .inr (.inl ⟨hr, hv, rfl⟩)
    · exact .inr (.inr ⟨len, he, h⟩)

/-- A DECODE that completes raises the pulse and stores its length, for success and failure alike (R24, R26). -/
theorem execDecode_next_response {len : Nat} {l : LaneLevels} {s t : State} (h : execDecode len l s = .next t) :
    t.regs.rspValid = 1 ∧ t.regs.rspLen = len := by
  rcases execDecode_cases len l s with ⟨_, he⟩ | ⟨_, f, _, he⟩ | ⟨_, _, he⟩
  · cases he.symm.trans h
    exact ⟨rfl, rfl⟩
  · cases he.symm.trans h
    exact ⟨rfl, rfl⟩
  · cases he.symm.trans h

/-- What each of the three kinds of edge leaves in `RSP_VALID` and `RSP_LEN`, said with the levels it sampled. -/
theorem step_next_response {s t : State} (h : step s = .next t) :
    (s.sample.rst = some true ∧ t.regs.rspValid = 0 ∧ t.regs.rspLen = 0) ∨
    (s.sample.rst = some false ∧ s.sample.reqValid = some false ∧ t.regs.rspValid = 0 ∧
      t.regs.rspLen = s.regs.rspLen) ∨
    (s.sample.rst = some false ∧ s.sample.reqValid = some true ∧ t.regs.rspValid = 1 ∧
      s.sample.reqLen = some t.regs.rspLen) := by
  rcases step_next_sampled h with ⟨hr, rfl⟩ | ⟨hr, hv, rfl⟩ | ⟨len, he, hx⟩
  · exact .inl ⟨hr, rfl, rfl⟩
  · exact .inr (.inl ⟨hr, hv, rfl, rfl⟩)
  · obtain ⟨hv, hl⟩ := execDecode_next_response hx
    rw [he, hl]
    exact .inr (.inr ⟨rfl, rfl, hv, rfl⟩)

/-- Settles O31, from what each of the three kinds of edge leaves in `RSP_VALID`. -/
theorem pulseMarksAcceptingEdges : Obligations.PulseMarksAcceptingEdges := by
  intro s t h _
  rcases step_next_response h with ⟨hr, hp, _⟩ | ⟨_, hv, hp, _⟩ | ⟨hr, hv, hp, _⟩
  · simp [hr, hp]
  · simp [hv, hp]
  · simp [hr, hv, hp]

/-- Settles O32, from what each of the three kinds of edge leaves in `RSP_LEN`. -/
theorem countIsOfTheLastRequest : Obligations.CountIsOfTheLastRequest := by
  intro s t h _
  rcases step_next_response h with ⟨hr, _, hn⟩ | ⟨hr, hv, _, hn⟩ | ⟨hr, hv, _, hn⟩
  · simp [hr, hn]
  · simp [hr, hv, hn]
  · simp [hr, hv, hn]

/-! ### The invariant -/

/-- The end of the pulse leaves the registers the result they were (R104). -/
theorem Regs.legal.withRspValid_zero {c : Config} {r : Regs} (h : r.legal c) : { r with rspValid := 0 }.legal c := by
  rcases h with rfl | ⟨v, n, hn, rfl⟩ | ⟨v, n, b, hn, rfl⟩
  · exact .inl rfl
  · exact .inr (.inl ⟨0, n, hn, rfl⟩)
  · exact .inr (.inr ⟨0, n, b, hn, rfl⟩)

theorem resetRegs_legal (c : Config) : resetRegs.legal c := .inl rfl

/-- The failure output of a short request is legal, with its pulse (R172). -/
theorem failureRegs_legal (c : Config) {n : Nat} (hn : n < 10) : (failureRegs n).legal c := .inr (.inl ⟨1, n, hn, rfl⟩)

/-- The record of one frame is legal, with its pulse (R103). -/
theorem successRegs_legal (c : Config) {n : Nat} (b : Frame) (hn : 10 ≤ n) :
    (successRegs n (measureFrame c.battPctMode b)).legal c := .inr (.inr ⟨1, n, b, hn, rfl⟩)

/-- Settles O35, by the three cycle operations: RESET gives the reset registers, IDLE only ends the pulse of a legal result,
and a DECODE writes the whole result of its own request, whose length fits the wires it came on. -/
theorem stepKeepsTheInvariant : Obligations.StepKeepsTheInvariant := by
  intro s t ⟨hcfg, hlen, hregs⟩ h
  rcases step_next h with rfl | rfl | ⟨len, hl, hn, rfl⟩ | ⟨len, hl, hn, f, rfl⟩
  · exact ⟨hcfg, Nat.two_pow_pos _, fun _ => resetRegs_legal _⟩
  · exact ⟨hcfg, hlen, fun hs => (hregs hs).withRspValid_zero⟩
  · exact ⟨hcfg, hn, fun _ => failureRegs_legal _ hl⟩
  · exact ⟨hcfg, hn, fun _ => successRegs_legal _ f hl⟩

/-- Legal registers whose code is OK hold the whole success of one frame. -/
theorem Regs.legal.exists_frame_of_codeOk {c : Config} {r : Regs} (h : r.legal c) (hc : r.rspCode = codeOk) :
    ∃ (v : BitVec 1) (n : Nat) (b : Frame), r = { successRegs n (measureFrame c.battPctMode b) with rspValid := v } := by
  rcases h with rfl | ⟨v, n, _, rfl⟩ | ⟨v, n, b, _, hr⟩
  · exact absurd hc (by decide)
  · exact absurd hc (by simp [failureRegs, codeOk])
  · exact ⟨v, n, b, hr⟩

/-! ### The host's reads -/

/-- A constant port reads as its level in every state (R28, R185). -/
theorem hostRead_constant {s : State} {p : OutPort} (hp : p.isConstant = true) : hostRead s p = .ok (portLevel s p) := by
  simp [hostRead, hp]

/-- Before the first RESET edge no register can be read (R192). -/
theorem hostRead_beforeReset {s : State} {p : OutPort} (hp : p.isConstant = false) (hs : s.resetSeen = false) :
    hostRead s p = .error .readBeforeReset := by
  simp [hostRead, hp, hs]

/-- Under the reserved code no register can be read (R78). -/
theorem hostRead_reserved {s : State} {p : OutPort} (hp : p.isConstant = false) (hs : s.resetSeen = true)
    (hc : s.regs.rspCode = 0b11) : hostRead s p = .error .reservedCode := by
  simp [hostRead, hp, hs, hc]

theorem OutPort.isConstant_of_isResult (p : OutPort) (hp : p.isResult = true) : p.isConstant = false := by
  cases p <;> simp_all [OutPort.isResult, OutPort.isConstant]

/-- A result register holds no measurement while the code is NONE or ERR_INSUFFICIENT (R31). -/
theorem hostRead_noMeasurement {s : State} {p : OutPort} (hp : p.isResult = true) (hs : s.resetSeen = true)
    (hc : s.regs.rspCode = codeNone ∨ s.regs.rspCode = codeInsufficient) : hostRead s p = .error .noMeasurement := by
  rcases hc with hc | hc
  · simp [hostRead, p.isConstant_of_isResult hp, hp, hs, hc, codeNone]
  · simp [hostRead, p.isConstant_of_isResult hp, hp, hs, hc, codeInsufficient]

/-- A response port reads as its register once a RESET edge has occurred, unless the code is reserved. -/
theorem hostRead_response {s : State} {p : OutPort} (hp : p.isResult = false) (hs : s.resetSeen = true)
    (hc : s.regs.rspCode ≠ 0b11) : hostRead s p = .ok (portLevel s p) := by
  simpa [hostRead, hp, hs] using fun _ => hc

/-- Settles O38, by the order in which a read is checked: constant, before a reset, reserved code, no measurement. -/
theorem readsGiveValuesWhereTheyExist : Obligations.ReadsGiveValuesWhereTheyExist := by
  exact ⟨fun s => ⟨hostRead_constant rfl, hostRead_constant rfl⟩, fun s p => hostRead_beforeReset,
    fun s p => hostRead_reserved, fun s p => hostRead_noMeasurement, fun s p => hostRead_ok,
    fun s hs hc => ⟨hostRead_response rfl hs hc, hostRead_response rfl hs hc, hostRead_response rfl hs hc⟩⟩

/-- The temperature read of a machine after a success is the register as two's complement. -/
theorem hostReadTemperature_ok {s : State} (hs : s.resetSeen = true) (hc : s.regs.rspCode = codeOk) :
    hostReadTemperature s = .ok s.regs.resTemp.toInt := by
  simp [hostReadTemperature, hostRead_ok hs hc]

/-! ### Ranges of the measurements -/

/-- A code within bounds stands for a value within the bounds' hundredths (R13). -/
theorem hundredths_bounds {lo hi c : Int} (hlo : lo ≤ c) (hhi : c ≤ hi) :
    (lo : ℚ) / 100 ≤ hundredths c ∧ hundredths c ≤ (hi : ℚ) / 100 := by
  have hlo' : (lo : ℚ) ≤ c := by exact_mod_cast hlo
  have hhi' : (c : ℚ) ≤ hi := by exact_mod_cast hhi
  unfold hundredths
  constructor <;> linarith

/-! The latched pressure, voltage and percentage are the frame's codes: none is cut by its register's width (R130). -/

theorem successRegs_resPress_toNat (n : Nat) (mode : BattPctMode) (b : Frame) :
    (successRegs n (measureFrame mode b)).resPress.toNat = pairValue b.b6 b.b7 + 80000 := pressCode_toNat b.b6 b.b7

theorem successRegs_resVbat_toNat (n : Nat) (mode : BattPctMode) (b : Frame) :
    (successRegs n (measureFrame mode b)).resVbat.toNat = vbatCode b.b8 := vbatCode_toNat b.b8

theorem successRegs_resPct_toNat (n : Nat) (mode : BattPctMode) (b : Frame) :
    (successRegs n (measureFrame mode b)).resPct.toNat = battPct mode b.b8 := battPct_toNat mode b.b8

/-- The three registers that are wider than their codes hold codes within R22's ranges. -/
theorem Regs.legal.ranges_of_codeOk {c : Config} {r : Regs} (h : r.legal c) (hc : r.rspCode = codeOk) :
    80000 ≤ r.resPress.toNat ∧ r.resPress.toNat ≤ 145535 ∧ 200 ≤ r.resVbat.toNat ∧ r.resVbat.toNat ≤ 455 ∧
      r.resPct.toNat ≤ 100 := by
  obtain ⟨v, n, b, rfl⟩ := h.exists_frame_of_codeOk hc
  have hpair := pairValue_lt b.b6 b.b7
  have hvbat := vbatCode_bounds b.b8
  have hpct := battPct_le c.battPctMode b.b8
  simp only [successRegs_resPress_toNat, successRegs_resVbat_toNat, successRegs_resPct_toNat]
  omega

/-- Settles O37: under the invariant an OK code means one frame's whole success, so every read gives its register; the
pressure, voltage and percentage lie in that frame's ranges, and every other code fills its register. -/
theorem measurementsLieInTheirRanges : Obligations.MeasurementsLieInTheirRanges := by
  intro s ⟨_, _, hlegal⟩ hs hc
  have hread (p : OutPort) : hostRead s p = .ok (portLevel s p) := hostRead_ok hs hc
  obtain ⟨hPlo, hPhi, hVlo, hVhi, hpct⟩ := (hlegal hs).ranges_of_codeOk hc
  have hpre : s.regs.resPreamble.toNat ≤ 255 := Nat.le_of_lt_succ s.regs.resPreamble.isLt
  have hsta : s.regs.resStatus.toNat ≤ 255 := Nat.le_of_lt_succ s.regs.resStatus.isLt
  have hcrc : s.regs.resCrc.toNat ≤ 255 := Nat.le_of_lt_succ s.regs.resCrc.isLt
  have hH : s.regs.resHum.toNat ≤ 65535 := Nat.le_of_lt_succ s.regs.resHum.isLt
  have hTlo : -32768 ≤ s.regs.resTemp.toInt := s.regs.resTemp.le_toInt
  have hThi : s.regs.resTemp.toInt ≤ 32767 := Int.le_of_lt_add_one s.regs.resTemp.toInt_lt
  have hTv := hundredths_bounds hTlo hThi
  have hHv := hundredths_bounds (lo := 0) (hi := 65535) (c := s.regs.resHum.toNat) (by omega) (by omega)
  have hPv := hundredths_bounds (lo := 80000) (hi := 145535) (c := s.regs.resPress.toNat) (by omega) (by omega)
  have hVv := hundredths_bounds (lo := 200) (hi := 455) (c := s.regs.resVbat.toNat) (by omega) (by omega)
  refine ⟨_, _, _, _, _, _, _, _, hread _, hread _, hread _, hostReadTemperature_ok hs hc, hread _, hread _, hread _,
    hread _, hpre, hsta, hcrc, hTlo, hThi, hH, hPlo, hPhi, hVlo, hVhi, hpct, ?_⟩
  norm_num [portLevel] at hTv hHv hPv hVv ⊢
  exact ⟨hTv.1, hTv.2, hHv.1, hHv.2, hPv.1, hPv.2, hVv.1, hVv.2⟩

end Sys2Proof.Machine

/-! PROOF. Which bytes of the frame each register of a success is made of. -/

namespace Sys2Proof.Machine

/-- The registers of a success, each written with the bytes of its own field (R54, R59, R103): byte 8 alone is read twice. -/
theorem successRegs_measureFrame (len : Nat) (mode : BattPctMode) (f : Frame) :
    successRegs len (measureFrame mode f) =
      { rspValid := 1, rspCode := codeOk, rspLen := len
        resPreamble := f.b0
        resStatus := f.b1
        resTemp := le16 f.b2 f.b3
        resHum := BitVec.ofNat 16 (humCode f.b4 f.b5)
        resPress := BitVec.ofNat 18 (pressCode f.b6 f.b7)
        resVbat := BitVec.ofNat 9 (vbatCode f.b8)
        resPct := BitVec.ofNat 7 (battPct mode f.b8)
        resCrc := f.b9 } := by
  rw [← ofInt_tempCode]
  rfl

/-- Settles O22: both DECODEs complete, as every lane is driven, and each latched register is a function of its own bytes. -/
theorem eachFieldReadsItsOwnBytes : Obligations.EachFieldReadsItsOwnBytes := by
  intro s len f g _ hlen
  refine ⟨_, _, execDecode_long f s hlen, execDecode_long g s hlen, ?_⟩
  simp only [State.latch_success_regs, successRegs_measureFrame]
  refine ⟨id, id, ?temp, ?hum, ?press, ?battery, id⟩
  case temp => intro h2 h3; rw [h2, h3]
  case hum => intro h4 h5; rw [h4, h5]
  case press => intro h6 h7; rw [h6, h7]
  case battery => intro h8; rw [h8]; exact ⟨rfl, rfl⟩

end Sys2Proof.Machine

/-! PROOF. The frame on its 80-bit bus, and the operation each request word's bits select. -/

namespace Sys2Proof

open Machine

/-! ### The frame on the bus -/

theorem toNat_append_eq_add {m n : Nat} (x : BitVec m) (y : BitVec n) :
    (x ++ y).toNat = x.toNat * 2 ^ n + y.toNat := by
  rw [BitVec.toNat_append, ← Nat.shiftLeft_add_eq_or_of_lt y.isLt, Nat.shiftLeft_eq]

theorem Lanes.pack_toNat (f : Frame) :
    f.pack.toNat = f.b0.toNat + f.b1.toNat * 2 ^ 8 + f.b2.toNat * 2 ^ 16 + f.b3.toNat * 2 ^ 24 +
      f.b4.toNat * 2 ^ 32 + f.b5.toNat * 2 ^ 40 + f.b6.toNat * 2 ^ 48 + f.b7.toNat * 2 ^ 56 + f.b8.toNat * 2 ^ 64 +
      f.b9.toNat * 2 ^ 72 := by
  simp only [Lanes.pack, toNat_append_eq_add]
  omega

/-- Each byte is its slice of the bus (R71): the bytes below it are less than its weight, and those above are multiples
of the next. -/
theorem frameByte_eq_extractLsb'_pack (f : Frame) (i : Fin 10) :
    frameByte f i = f.pack.extractLsb' (8 * i.val) 8 := by
  have h0 := f.b0.isLt
  have h1 := f.b1.isLt
  have h2 := f.b2.isLt
  have h3 := f.b3.isLt
  have h4 := f.b4.isLt
  have h5 := f.b5.isLt
  have h6 := f.b6.isLt
  have h7 := f.b7.isLt
  have h8 := f.b8.isLt
  have h9 := f.b9.isLt
  apply BitVec.eq_of_toNat_eq
  rw [BitVec.extractLsb'_toNat, Nat.shiftRight_eq_div_pow, f.pack_toNat]
  fin_cases i <;> simp only [frameByte] <;> omega

/-- Sixteen bits of a bus are its two bytes there, the lower byte first (R75, R123). -/
theorem extractLsb'_sixteen_eq_le16 {n : Nat} (w : BitVec n) (k : Nat) :
    w.extractLsb' k 16 = le16 (w.extractLsb' k 8) (w.extractLsb' (k + 8) 8) := by
  apply BitVec.eq_of_toNat_eq
  rw [le16_toNat, pairValue]
  simp only [BitVec.extractLsb'_toNat, Nat.shiftRight_add, Nat.shiftRight_eq_div_pow _ 8]
  omega

@[simp] theorem unpackFrame_pack (f : Frame) : unpackFrame f.pack = f := by
  have slice (i : Fin 10) := (frameByte_eq_extractLsb'_pack f i).symm
  rw [unpackFrame]
  congr 1
  exacts [slice 0, slice 1, slice 2, slice 3, slice 4, slice 5, slice 6, slice 7, slice 8, slice 9]

/-- The ten slices cover the 80 bits of the bus, in base 256. -/
theorem pack_unpackFrame (w : BitVec 80) : (unpackFrame w).pack = w := by
  have := w.isLt
  apply BitVec.eq_of_toNat_eq
  simp only [Lanes.pack_toNat, unpackFrame, BitVec.extractLsb'_toNat, Nat.shiftRight_eq_div_pow]
  omega

/-- Settles O39: the bus is the sum of the bytes at their weights, so each byte, and each pair of bytes, is a slice of it. -/
theorem framePackingIsLossless : Obligations.FramePackingIsLossless := by
  refine ⟨unpackFrame_pack, pack_unpackFrame, Lanes.pack_toNat, fun f => ?pairs, frameByte_eq_extractLsb'_pack⟩
  have slice := frameByte_eq_extractLsb'_pack f
  simp only [extractLsb'_sixteen_eq_le16]
  exact ⟨congrArg₂ le16 (slice 2) (slice 3), congrArg₂ le16 (slice 4) (slice 5), congrArg₂ le16 (slice 6) (slice 7)⟩

/-! ### The control word and the length -/

/-- Settles O27: the three rows of R72, `rst = 1` first. -/
theorem controlWordSelectsOperation : Obligations.ControlWordSelectsOperation := by
  intro c rst valid len f hlen
  match rst, valid with
  | true, _ => exact decodeEdge_rst c _ _ _
  | false, false => exact decodeEdge_idle c _ _
  | false, true => exact decodeEdge_request hlen (.inr (Lanes.driven_levels f))

/-- Settles O43: saturation is the minimum with `2^LEN_W - 1`, which is at least 10 as `LEN_W` is at least 4. -/
theorem saturatedLengthKeepsTheTest : Obligations.SaturatedLengthKeepsTheTest := by
  intro c n hc
  have hten := Laws.EncodedIsDone.ten_lt hc
  have hlt := hostLen_lt c n
  rw [hostLen] at hlt ⊢
  omega

/-- Settles O41: five closed words, each read bit by bit. -/
theorem specWordsDecode : Obligations.SpecWordsDecode := by
  rw [Obligations.SpecWordsDecode]
  decide

/-! ### The request word -/

/-- The edge with every undriven input at 0, which is how a request word shows it (R73, R83; log 8). -/
def Edge.zeroFilled (e : Edge) : Edge where
  rst := some (e.rst.getD false)
  reqValid := some (e.reqValid.getD false)
  reqLen := some (e.reqLen.getD 0)
  reqFrame := e.reqFrame.shown.levels

@[simp] theorem zeroFilled_requestEdge (len : Nat) (f : Frame) :
    (requestEdge len f.levels).zeroFilled = requestEdge len f.levels := rfl

/-- A word reads back as the levels it is made of (R73; log 8): two control bits, a length that fits its wires, and the
bus. -/
theorem Edge.ofWord_parts {c : Config} (valid rst : Bool) {n : Nat} (bus : BitVec 80) (hn : n < 2 ^ c.lenW) :
    Edge.ofWord c (valid.toNat + 2 * rst.toNat + 4 * n + 2 ^ (2 + c.lenW) * bus.toNat) =
      ⟨some rst, some valid, some n, (unpackFrame bus).levels⟩ := by
  have hword : valid.toNat + 2 * rst.toNat + 4 * n + 2 ^ (2 + c.lenW) * bus.toNat =
      Nat.bit valid (Nat.bit rst (n + 2 ^ c.lenW * bus.toNat)) := by
    simp only [Nat.bit_val, Nat.pow_add, Nat.mul_assoc]
    omega
  have hshift : Nat.bit valid (Nat.bit rst (n + 2 ^ c.lenW * bus.toNat)) >>> 2 = n + 2 ^ c.lenW * bus.toNat := by
    simp only [Nat.shiftRight_succ, Nat.shiftRight_zero, Nat.bit_div_two]
  rw [hword, Edge.ofWord, Nat.shiftRight_add, hshift]
  congr
  · rw [Nat.testBit_bit_succ, Nat.testBit_bit_zero]
  · rw [Nat.testBit_bit_zero]
  · rw [Nat.add_mul_mod_self_left, Nat.mod_eq_of_lt hn]
  · rw [Nat.shiftRight_eq_div_pow, Nat.add_mul_div_left _ _ (Nat.two_pow_pos _), Nat.div_eq_of_lt hn, Nat.zero_add,
      BitVec.ofNat_toNat, BitVec.setWidth_eq]

/-- The bits of an edge's request word are its levels, an undriven one 0, if its length fits the wires. -/
theorem Edge.ofWord_toWord {c : Config} {e : Edge} (hlen : e.reqLen.getD 0 < 2 ^ c.lenW) :
    Edge.ofWord c (e.toWord c) = e.zeroFilled := by
  rw [Edge.toWord, Edge.ofWord_parts _ _ _ hlen, unpackFrame_pack, Edge.zeroFilled]

/-- What can be encoded: a reset, an idle edge, or a request whose length fits its wires and whose lanes are driven. -/
theorem encode_cases {c : Config} {i : Instr} (hc : c.wf) (hi : i.wf c = true)
    (hl : ∀ len l, i = .decode len l → l.driven = true) :
    i = .reset ∨ i = .idle ∨ ∃ (len : Nat) (f : Frame), len < 2 ^ c.lenW ∧ encode i = requestEdge len f.levels := by
  have hten := Laws.EncodedIsDone.ten_lt hc
  cases i with
  | reset => exact .inl rfl
  | idle => exact .inr (.inl rfl)
  | decode len l =>
    obtain ⟨f, rfl⟩ := Lanes.exists_levels_of_driven (hl len l rfl)
    simp only [Instr.wf, Bool.and_eq_true, decide_eq_true_eq] at hi
    exact .inr (.inr ⟨len, f, hi.1, rfl⟩)
  | opLenchk len => exact .inr (.inr ⟨len, _, of_decide_eq_true hi, rfl⟩)
  -- the data operations: each is encoded as a request of ten bytes
  | _ => exact .inr (.inr ⟨10, _, hten, rfl⟩)

/-- At the edge that encodes it, every operation is done. -/
theorem mem_edgeOps_encode (i : Instr) : Laws.EncodedIsDone.Statement i :=
  match i with
  | .reset => Laws.EncodedIsDone.reset
  | .decode len l => Laws.EncodedIsDone.decode len l
  | .idle => Laws.EncodedIsDone.idle
  | .opLenchk len => Laws.EncodedIsDone.opLenchk len
  | .opPreamble p => Laws.EncodedIsDone.opPreamble p
  | .opStatus st => Laws.EncodedIsDone.opStatus st
  | .opTemp lo hi => Laws.EncodedIsDone.opTemp lo hi
  | .opHum lo hi => Laws.EncodedIsDone.opHum lo hi
  | .opPress lo hi => Laws.EncodedIsDone.opPress lo hi
  | .opVbat v => Laws.EncodedIsDone.opVbat v
  | .opBattpct v => Laws.EncodedIsDone.opBattpct v
  | .opCrc b => Laws.EncodedIsDone.opCrc b

/-- Settles O40: the word's bits are the levels of the edge that encodes the operation, and there it is done. RESET and IDLE
leave inputs undriven, which their words show as zeros that they do not read. -/
theorem requestWordRoundTrip : Obligations.RequestWordRoundTrip := by
  intro c i hc hi hl
  rw [encodeWord]
  rcases encode_cases hc hi hl with rfl | rfl | ⟨len, f, hlen, he⟩
  · rw [Edge.ofWord_toWord (Nat.two_pow_pos _)]
    simp [edgeOps, encode, Edge.zeroFilled]
  · rw [Edge.ofWord_toWord (Nat.two_pow_pos _)]
    simp [edgeOps, encode, Edge.zeroFilled]
  · have hdone := mem_edgeOps_encode i c hc hi
    rw [he] at hdone ⊢
    rwa [Edge.ofWord_toWord (e := requestEdge len f.levels) hlen, zeroFilled_requestEdge]

/-! ### The inputs that an edge's decoding reads -/

/-- Edges with the same inputs that FDEC reads decode alike, or are requests of one length below 10 (R61, R72). -/
theorem Edge.sameRead_cases {e e' : Edge} (h : e.sameRead e') :
    (∀ c, decodeEdge c e = decodeEdge c e') ∨
    ∃ len, len < 10 ∧ e = requestEdge len e.reqFrame ∧ e' = requestEdge len e'.reqFrame := by
  obtain ⟨rst, valid, len, lanes⟩ := e
  obtain ⟨rst', valid', len', lanes'⟩ := e'
  obtain ⟨hrst, hrest⟩ := h
  dsimp only at hrst hrest
  subst hrst
  match rst with
  | none => exact .inl fun _ => rfl
  | some true => exact .inl fun _ => rfl
  | some false =>
    obtain ⟨hvalid, hread⟩ := hrest rfl
    subst hvalid
    match valid with
    | none => exact .inl fun _ => rfl
    | some false => exact .inl fun _ => rfl
    | some true =>
      obtain ⟨hlen, hlanes⟩ := hread rfl
      subst hlen
      match len with
      | none => exact .inl fun _ => rfl
      | some n =>
        rcases Nat.lt_or_ge n 10 with hn | hn
        · exact .inr ⟨n, hn, rfl, rfl⟩
        · rw [hlanes n rfl hn]
          exact .inl fun _ => rfl

end Sys2Proof

/-! PROOF. A DECODE as its field operations, done in any order; what a step makes of the inputs it reads; the code it leaves. -/

namespace Sys2Proof.Machine

/-! ### Field operations in a row -/

theorem execAll_cons_of_next {i : Instr} {s t : State} (rest : List Instr) (h : exec i s = .next t) :
    execAll (i :: rest) s = execAll rest t := by
  simp only [execAll, h]

/-- The eight data operations in a row complete and write the eight result registers of their frame (R79). -/
theorem execAll_dataOps (f : Frame) (s : State) :
    execAll (dataOps f) s = .next { s with
      regs := { successRegs s.regs.rspLen (measureFrame s.cfg.battPctMode f) with
        rspValid := s.regs.rspValid, rspCode := s.regs.rspCode } } := by
  simp only [successRegs_measureFrame, ← ofInt_tempCode]
  rcases s with ⟨_, ⟨⟩, _, _, _⟩
  rfl

theorem fieldOps_short {len : Nat} (l : LaneLevels) (h : len < 10) : fieldOps len l = [.opLenchk len] := by
  simp [fieldOps, h]

theorem fieldOps_long {len : Nat} (f : Frame) (h : 10 ≤ len) :
    fieldOps len f.levels = .opLenchk len :: dataOps f := by
  simp [fieldOps, Nat.not_lt.mpr h]

theorem lenCode_short {len : Nat} (h : len < 10) : lenCode len = codeInsufficient := by
  simp [lenCode, lenOk, Nat.not_le.mpr h]

theorem lenCode_long {len : Nat} (h : 10 ≤ len) : lenCode len = codeOk := by
  simp [lenCode, lenOk, h]

/-- Settles O20: with enough bytes the length check and the eight data operations write every register of a success but the
pulse; with fewer the length check alone writes the code and the count of a failure. -/
theorem decodeIsItsFieldOperations : Obligations.DecodeIsItsFieldOperations := by
  constructor
  · intro s len f _ hlen
    rw [fieldOps_long f hlen, execAll_cons_of_next _ (exec_opLenchk len s), execAll_dataOps, lenCode_long hlen,
      exec_decode, execDecode_long f s hlen]
    exact ⟨_, rfl, rfl⟩
  · intro s len l _ hlen
    rw [fieldOps_short l hlen, execAll_cons_of_next _ (exec_opLenchk len s), lenCode_short hlen, exec_decode,
      execDecode_short l s hlen]
    exact ⟨_, rfl, rfl⟩

/-- Two operations may be exchanged, whatever is done after them. -/
def Exchangeable (i j : Instr) : Prop := ∀ rest : List Instr, execAll (i :: j :: rest) = execAll (j :: i :: rest)

/-- Two data operations of a frame write different registers, or are the same. -/
theorem dataOps_exchangeable {f : Frame} {i j : Instr} (hi : i ∈ dataOps f) (hj : j ∈ dataOps f) : Exchangeable i j := by
  intro rest
  -- on the state's fields, each exchange is two writes side by side
  funext ⟨_, _, _, _, _⟩
  simp only [dataOps, List.mem_cons, List.not_mem_nil, or_false] at hi hj
  rcases hi with rfl | rfl | rfl | rfl | rfl | rfl | rfl | rfl <;>
    rcases hj with rfl | rfl | rfl | rfl | rfl | rfl | rfl | rfl <;> rfl

/-- Operations that commute pairwise do the same in every order. -/
theorem execAll_perm {l l' : List Instr} (h : l.Perm l') (hc : ∀ i ∈ l, ∀ j ∈ l, Exchangeable i j) :
    execAll l = execAll l' := by
  induction h with
  | nil => rfl
  | cons i _ ih =>
    have hrest := ih fun j hj k hk => hc j (.tail _ hj) k (.tail _ hk)
    funext s
    simp only [execAll, hrest]
  | swap i j rest => exact hc j (.head _) i (.tail _ (.head _)) rest
  | trans hp _ ih ih' => exact (ih hc).trans (ih' fun i hi j hj => hc i (hp.mem_iff.mpr hi) j (hp.mem_iff.mpr hj))

/-- Settles O21: the data operations commute pairwise, and in the frame's own order they complete. -/
theorem fieldOrderDoesNotMatter : Obligations.FieldOrderDoesNotMatter := by
  intro s f l _ hp
  have hsame : execAll l = execAll (dataOps f) :=
    (execAll_perm hp.symm fun i hi j hj => dataOps_exchangeable hi hj).symm
  exact ⟨_, by rw [hsame, execAll_dataOps], execAll_dataOps f s⟩

/-! ### What a step reads of its edge -/

/-- What is past an edge does not depend on its levels. -/
theorem State.pastEdge_withEdge (s : State) (e : Edge) : (s.withEdge e).pastEdge = s.pastEdge := rfl

theorem step_withEdge_congr {s : State} {e e' : Edge} (h : decodeEdge s.cfg e = decodeEdge s.cfg e') :
    step (s.withEdge e) = step (s.withEdge e') := by
  simp only [step, State.sample_withEdge, State.withEdge_cfg, State.pastEdge_withEdge, h]

/-- A short request's lanes are not read (R61): they change neither what is decoded nor what is done. -/
theorem step_withEdge_short {s : State} {len : Nat} (l l' : LaneLevels) (h : len < 10) :
    step (s.withEdge (requestEdge len l)) = step (s.withEdge (requestEdge len l')) := by
  by_cases hw : len < 2 ^ s.cfg.lenW
  · have hstep (m : LaneLevels) :
        step (s.withEdge (requestEdge len m)) = .next (s.pastEdge.raiseInsufficientInput len) := by
      rw [step_of_decodeEdge (decodeEdge_request hw (.inl h)), exec_decode, execDecode_short m _ h,
        State.pastEdge_withEdge]
    rw [hstep, hstep]
  · have hwide (m : LaneLevels) : decodeEdge s.cfg (requestEdge len m) = .error .lenTooWide := by
      simp [decodeEdge, requestEdge, Nat.not_lt.mp hw]
    exact step_withEdge_congr (by rw [hwide, hwide])

/-- Settles O30: edges that carry the same where FDEC reads decode alike, or are short requests, whose lanes are not read. -/
theorem unreadInputsHaveNoEffect : Obligations.UnreadInputsHaveNoEffect := by
  intro s e e' h
  rcases Edge.sameRead_cases h with hd | ⟨len, hlen, he, he'⟩
  · exact step_withEdge_congr (hd s.cfg)
  · rw [he, he']
    exact step_withEdge_short _ _ hlen

/-! ### The code a step leaves -/

/-- A DECODE that completes leaves OK or ERR_INSUFFICIENT (R170). -/
theorem execDecode_next_rspCode {len : Nat} {l : LaneLevels} {s t : State} (h : execDecode len l s = .next t) :
    t.regs.rspCode = codeOk ∨ t.regs.rspCode = codeInsufficient := by
  rcases execDecode_cases len l s with ⟨_, he⟩ | ⟨_, f, _, he⟩ | ⟨_, _, he⟩
  · cases he.symm.trans h
    exact .inr rfl
  · cases he.symm.trans h
    exact .inl rfl
  · cases he.symm.trans h

/-- Settles O33: a reset leaves NONE, a DECODE leaves OK or ERR_INSUFFICIENT, and an idle edge keeps the code. -/
theorem reservedCodeNeverProduced : Obligations.ReservedCodeNeverProduced := by
  intro s t h hcode
  rcases step_next_sampled h with ⟨_, rfl⟩ | ⟨hrst, hvalid, rfl⟩ | ⟨len, _, hx⟩
  · exact absurd hcode (by decide : (0b00 : BitVec 2) ≠ 0b11)
  · exact ⟨hcode, hrst, hvalid, rfl⟩
  · rcases execDecode_next_rspCode hx with hc | hc <;> exact absurd (hc.symm.trans hcode) (by decide)

end Sys2Proof.Machine

/-! PROOF. What a DECODE latches and what the host then reads of it; well-formed requests at one edge after another; the
operation that a step takes from its edge. -/

namespace Sys2Proof.Machine

/-! ### Which operation a step does -/

theorem step_of_decodeEdge_error {s : State} {e : EdgeError} (h : decodeEdge s.cfg s.sample = .error e) :
    step s = .refused (.badEdge e) := by
  simp only [step, h]

theorem State.pastEdge_cons {s : State} {e : Edge} {rest : List Edge} (h : s.program = e :: rest) :
    s.pastEdge = { s with program := rest, edgeNo := s.edgeNo + 1 } := by
  rw [State.pastEdge, h, List.tail_cons]

/-- Settles O26, from what a step does with its decoded edge and from the decoder's giving well-formed operations alone. -/
theorem stepRunsTheSampledOperation : Obligations.StepRunsTheSampledOperation :=
  ⟨fun _ _ h => step_of_decodeEdge h, fun _ _ h => step_of_decodeEdge_error h,
    fun _ _ _ h => ⟨State.sample_cons h, State.pastEdge_cons h⟩, fun _ _ h => decodeEdge_wf h⟩

/-- `rst = 1` alone selects RESET (R72, R197). -/
theorem decodeEdge_of_rst {c : Config} {e : Edge} (h : e.rst = some true) : decodeEdge c e = .ok .reset := by
  simp only [decodeEdge, h]

/-- Settles O1: RESET writes its registers over any state, and at an edge with `rst = 1` it is what the step does. -/
theorem resetClearsEveryRegister : Obligations.ResetClearsEveryRegister := by
  refine ⟨exec_reset, fun s h => ?_⟩
  rw [step_of_decodeEdge (decodeEdge_of_rst h), exec_reset]
  rfl

/-- Settles O5: IDLE is one write, of `RSP_VALID`. -/
theorem idleOnlyEndsThePulse : Obligations.IdleOnlyEndsThePulse := fun s _ => exec_idle s

theorem decodeTableWord_eq_some {nbits w : Nat} {i : Instr} (h : decodeTableWord nbits w = some i) :
    decodeEdge {} (Edge.ofWord {} (w % 2 ^ nbits)) = .ok i := by
  rw [decodeTableWord] at h
  split at h
  next hi => rw [hi, Option.some.inj h]
  next => cases h

/-- Settles O42: the placed word's levels are what the next step samples, and they decode as the table's word does. -/
theorem placedWordIsRun : Obligations.PlacedWordIsRun := by
  intro s nbits w i hcfg hword
  have hedge := decodeTableWord_eq_some hword
  rw [← hcfg] at hedge
  exact step_of_decodeEdge (s := s.withFetchWord nbits w) hedge

/-! ### Operations that complete -/

theorem wf_decode_iff {c : Config} {len : Nat} {l : LaneLevels} :
    (Instr.decode len l).wf c = true ↔ len < 2 ^ c.lenW ∧ (len < 10 ∨ l.driven = true) := by
  simp [Instr.wf]

/-- A DECODE whose read lanes are driven completes, and the registers it leaves are fixed by the request and the parameters
(R103, R108): they are the same from every state. -/
theorem execDecode_completes {len : Nat} {l : LaneLevels} (h : len < 10 ∨ l.driven = true) (c : Config) :
    ∃ r : Regs, ∀ s : State, s.cfg = c → execDecode len l s = .next { s with regs := r } := by
  rcases Nat.lt_or_ge len 10 with hlen | hlen
  · exact ⟨failureRegs len, fun s _ => execDecode_short l s hlen⟩
  · obtain ⟨f, rfl⟩ := Lanes.exists_levels_of_driven (h.resolve_left (Nat.not_lt.mpr hlen))
    refine ⟨successRegs len (measureFrame c.battPctMode f), fun s hs => ?_⟩
    subst hs
    exact execDecode_long f s hlen

/-- A well-formed operation gives a next state: FDEC never stops on its own (R109). -/
theorem exec_completes_of_wf {i : Instr} {s : State} (h : i.wf s.cfg = true) : ∃ t, exec i s = .next t := by
  cases i with
  | decode len l =>
    obtain ⟨r, hr⟩ := execDecode_completes (wf_decode_iff.mp h).2 s.cfg
    exact ⟨_, hr s rfl⟩
  -- RESET, IDLE and the field operations write registers and refuse nothing
  | _ => exact ⟨_, rfl⟩

/-- An edge that selects an operation completes, since the decoder gives well-formed operations alone. -/
theorem step_completes_of_decodeEdge {s : State} {i : Instr} (h : decodeEdge s.cfg s.sample = .ok i) :
    ∃ t, step s = .next t := by
  rw [step_of_decodeEdge h]
  exact exec_completes_of_wf (s := s.pastEdge) (decodeEdge_wf h)

/-! ### Edges past the listing -/

theorem State.sample_of_unlisted {s : State} (h : s.program = []) :
    s.sample = (Config.hostDrive s.edgeNo).edge s.cfg := by
  rw [State.sample, h]

/-- The levels of a `HostDrive` are a dutiful host's (R107, R194): all defined, with a length its wires carry. -/
theorem hostDrive_edge_dutiful (c : Config) (d : HostDrive) : (d.edge c).dutiful c := by
  constructor
  · intro p _
    cases p <;> rfl
  · intro n hn
    cases hn
    exact hostLen_lt c d.count

/-- Settles O29: whatever the free host drives, all its levels are defined, so one of R72's rows is selected and completes. -/
theorem unlistedEdgesComplete : Obligations.UnlistedEdgesComplete := by
  intro s h
  have hsample := State.sample_of_unlisted h
  generalize Config.hostDrive s.edgeNo = d at hsample
  have hselects := controlWordSelectsOperation s.cfg d.rst d.reqValid _ d.frame (hostLen_lt s.cfg d.count)
  constructor
  · rw [hsample]
    exact hostDrive_edge_dutiful s.cfg d
  · exact step_completes_of_decodeEdge ((congrArg _ hsample).trans hselects)

/-! ### One request at two points of a run -/

/-- No step changes a parameter (R8). -/
theorem step_next_cfg {s t : State} (h : step s = .next t) : t.cfg = s.cfg := by
  rcases step_next h with rfl | rfl | ⟨_, _, _, rfl⟩ | ⟨_, _, _, _, rfl⟩ <;> rfl

theorem run_next_cfg {k : Nat} {s t : State} (h : Host.Core.run Sys2Proof.core k s = .next t) : t.cfg = s.cfg :=
  Laws.run_keeps (M := Sys2Proof.core) (P := fun u : State => u.cfg = s.cfg)
    (fun _ _ hu hstep => (step_next_cfg hstep).trans hu) k rfl h

/-- Settles O23: a run keeps the parameters, and with the request they fix the registers that a DECODE leaves. -/
theorem decodeForgetsThePast : Obligations.DecodeForgetsThePast := by
  intro k s s' len l _ hrun hwf
  obtain ⟨r, hr⟩ := execDecode_completes (wf_decode_iff.mp hwf).2 s.cfg
  exact ⟨_, _, hr s rfl, hr s' (run_next_cfg hrun), rfl⟩

/-- A well-formed request that is listed next is accepted (R106). -/
theorem step_of_listed_request {s : State} {len : Nat} {l : LaneLevels} {rest : List Edge}
    (hprog : s.program = requestEdge len l :: rest) (hwf : (Instr.decode len l).wf s.cfg = true) :
    step s = execDecode len l s.pastEdge := by
  obtain ⟨hlen, hlanes⟩ := wf_decode_iff.mp hwf
  refine step_of_decodeEdge (i := .decode len l) ?_
  rw [State.sample_cons hprog]
  exact decodeEdge_request hlen hlanes

/-- Settles O24: each listed request is accepted at its edge, and what it latches does not depend on the state before. -/
theorem backToBackReplacesWholly : Obligations.BackToBackReplacesWholly := by
  intro s n m l l' rest _ hprog hwf hwf'
  obtain ⟨r, hr⟩ := execDecode_completes (wf_decode_iff.mp hwf).2 s.cfg
  obtain ⟨r', hr'⟩ := execDecode_completes (wf_decode_iff.mp hwf').2 s.cfg
  let t : State := { s.pastEdge with regs := r }
  have hfirst : execDecode n l s.pastEdge = .next t := hr s.pastEdge rfl
  have hsecond : execDecode m l' t.pastEdge = .next { t.pastEdge with regs := r' } := hr' t.pastEdge rfl
  have hlisted : t.program = requestEdge m l' :: rest := congrArg List.tail hprog
  exact ⟨t, _, _, (step_of_listed_request hprog hwf).trans hfirst, (step_of_listed_request hlisted hwf').trans hsecond,
    hr' s rfl, (execDecode_next_response hfirst).1, (execDecode_next_response hsecond).1, rfl⟩

/-! ### What a DECODE latches -/

/-- The pair as two's complement, by the sign bit of its high byte (R124, R125). -/
theorem le16_toInt (lo hi : Byte) :
    (le16 lo hi).toInt = if 128 ≤ hi.toNat then (pairValue lo hi : Int) - 65536 else pairValue lo hi := by
  have := lo.isLt
  rw [BitVec.toInt_eq_toNat_cond, le16_toNat, pairValue]
  split_ifs <;> omega

/-- Settles O3: a long request's registers, each as a number of its own bytes, and a short one's failure output. -/
theorem decodeLatchesItsResult : Obligations.DecodeLatchesItsResult := by
  constructor
  · intro s len f _ hlen
    refine ⟨_, execDecode_long f s hlen, ?_⟩
    rw [successRegs_measureFrame]
    exact ⟨rfl, rfl, rfl, rfl, rfl, le16_toNat f.b2 f.b3, le16_toInt f.b2 f.b3, humCode_toNat f.b4 f.b5,
      pressCode_toNat f.b6 f.b7, vbatCode_toNat f.b8, rfl, battPct_toNat _ f.b8⟩
  · intro s len l _ hlen
    exact ⟨_, execDecode_short l s hlen, rfl, rfl, rfl, rfl, rfl, rfl, rfl, rfl, rfl, rfl, rfl⟩

/-! ### The machine's decoding function and the exact one -/

/-- The exact percentage in eighths (R151, R154). -/
theorem exactPercentage_eq (V : Nat) : exactPercentage V = ((5 * ((min V 410 : Nat) - 250) : Int) : ℚ) / 8 := by
  have hmin : min (hundredths V) (41 / 10) = ((min V 410 : Nat) : ℚ) / 100 := by
    rw [Nat.cast_min, ← min_div_div_right (by norm_num)]
    norm_num [hundredths]
  rw [exactPercentage, hmin]
  push_cast
  ring

/-- Eighths round to the nearest integer, the half up, by adding four of them (R152, R154). -/
theorem roundHa_eighths {n : Int} (h : 0 ≤ n) : roundHa ((n : ℚ) / 8) = (n + 4) / 8 := by
  have hn : (0 : ℚ) ≤ n := by exact_mod_cast h
  have hsum : (n : ℚ) / 8 + 1 / 2 = ((n + 4 : Int) : ℚ) / (8 : Nat) := by
    push_cast
    ring
  rw [roundHa, if_pos (by positivity), hsum, Rat.floor_intCast_div_natCast]
  rfl

theorem roundHa_nonpos {x : ℚ} (h : x < 0) : roundHa x ≤ 0 := by
  have hfloor : 0 ≤ ⌊-x + 1 / 2⌋ := Int.floor_nonneg.mpr (by linarith)
  rw [roundHa, if_neg (not_le.mpr h)]
  omega

/-- The integer form is the exact formula (R154): from 2.50 V up both round the same eighths, and below it both end as 0. -/
theorem battPctExact_eq_battPctInt (V : Nat) : battPctExact V = battPctInt V := by
  rw [battPctExact, exactPercentage_eq, battPctInt_eq]
  rcases Nat.lt_or_ge V 250 with hV | hV
  · have hneg : ((5 * ((min V 410 : Nat) - 250) : Int) : ℚ) < 0 := by
      exact_mod_cast (by omega : (5 * ((min V 410 : Nat) - 250) : Int) < 0)
    have hround := roundHa_nonpos (div_neg_of_neg_of_pos hneg (by norm_num : (0 : ℚ) < 8))
    rw [if_pos hV.le]
    split_ifs <;> omega
  · rw [roundHa_eighths (by omega)]
    split_ifs <;> omega

/-- Under EXACT the machine's decoding function is the one on integers and exact rationals (R101, R151). -/
theorem measureFrame_exactForm (f : Frame) : measureFrame .exactForm f = measureExact f := by
  simp only [measureFrame, measureExact, frameByte, tempCode, sext16_eq_toInt, le16_toInt, humCode, pressCode, le16_toNat,
    battPct, vbatCode, battPctExact_eq_battPctInt, Int.toNat_natCast]

theorem decodeExact_short {len : Nat} (f : Frame) (h : len < 10) : decodeExact len f = .failure len := if_pos h

theorem decodeExact_long {len : Nat} (f : Frame) (h : 10 ≤ len) : decodeExact len f = .success (measureExact f) :=
  if_neg (Nat.not_lt.mpr h)

/-! ### What the host reads of a latched result -/

/-- After a failure the host reads the kind and the count, and no measurement (R31, R172). -/
theorem hostSees_failure {t : State} {len : Nat} (hs : t.resetSeen = true) (hr : t.regs = failureRegs len) :
    hostSees t (.failure len) := by
  have hcode : t.regs.rspCode = codeInsufficient := by rw [hr]; rfl
  have hread {p : OutPort} (hp : p.isResult = false) : hostRead t p = .ok (portLevel t p) :=
    hostRead_response hp hs (by rw [hcode]; decide)
  have hnone {p : OutPort} (hp : p.isResult = true) := hostRead_noMeasurement hp hs (.inr hcode)
  rw [hostSees, hread rfl, hread rfl, hread rfl]
  simp only [portLevel, hr]
  exact ⟨rfl, rfl, rfl, fun _ => hnone⟩

/-- After a success the host reads the record of the frame, in any mode: no code is cut by its register's width (R130). -/
theorem hostSees_success {t : State} {len : Nat} {mode : BattPctMode} {f : Frame} (hs : t.resetSeen = true)
    (hr : t.regs = successRegs len (measureFrame mode f)) : hostSees t (.success (measureFrame mode f)) := by
  have hcode : t.regs.rspCode = codeOk := by rw [hr]; rfl
  have hread (p : OutPort) : hostRead t p = .ok (portLevel t p) := hostRead_ok hs hcode
  have htemp : (BitVec.ofInt 16 (tempCode f.b2 f.b3)).toInt = tempCode f.b2 f.b3 := by
    rw [ofInt_tempCode, tempCode, sext16_eq_toInt]
  have hhum : (BitVec.ofNat 16 (humCode f.b4 f.b5)).toNat = humCode f.b4 f.b5 := by
    rw [humCode_toNat, humCode, le16_toNat]
  have hpress : (BitVec.ofNat 18 (pressCode f.b6 f.b7)).toNat = pressCode f.b6 f.b7 := by
    rw [pressCode_toNat, pressCode, le16_toNat]
  simp only [hostSees, hread, hostReadTemperature_ok hs hcode, portLevel, hr, Except.ok.injEq]
  exact ⟨rfl, rfl, rfl, rfl, htemp, hhum, hpress, vbatCode_toNat f.b8, rfl, battPct_toNat mode f.b8⟩

/-- Settles O19: the host reads back what the DECODE latched, which under EXACT is the exact decoding function's result. -/
theorem hostReadsTheDecodedFrame : Obligations.HostReadsTheDecodedFrame := by
  intro s len f hs hmode
  rcases Nat.lt_or_ge len 10 with hlen | hlen
  · refine ⟨_, execDecode_short f.levels s hlen, ?_, hostRead_response rfl hs (show codeInsufficient ≠ 0b11 by decide)⟩
    rw [decodeExact_short f hlen]
    exact hostSees_failure hs rfl
  · refine ⟨_, execDecode_long f s hlen, ?_, hostRead_ok hs rfl⟩
    rw [decodeExact_long f hlen, ← measureFrame_exactForm, hmode]
    exact hostSees_success hs rfl

end Sys2Proof.Machine

/-! PROOF. The field operations of spec/41_field_decode.md: what each writes, as a number of its own bytes, and what a DECODE
shows of it. -/

namespace Sys2Proof.Machine

/-! ### The length check and the verbatim bytes -/

/-- OK from 10 bytes on, ERR_INSUFFICIENT below (R120). -/
theorem lenCode_eq_ite (len : Nat) : lenCode len = if 10 ≤ len then 0b01 else 0b10 := by
  simp only [lenCode, lenOk, codeOk, codeInsufficient, decide_eq_true_eq]

/-- Every DECODE that completes shows the code that its length check gives (R103, R120). -/
theorem execDecode_next_lenCode {len : Nat} {l : LaneLevels} {s t : State} (h : execDecode len l s = .next t) :
    t.regs.rspCode = lenCode len := by
  rcases execDecode_cases len l s with ⟨hlen, he⟩ | ⟨hlen, f, _, he⟩ | ⟨_, _, he⟩
  · cases he.symm.trans h
    exact (lenCode_short hlen).symm
  · cases he.symm.trans h
    exact (lenCode_long hlen).symm
  · cases he.symm.trans h

/-- Settles O6: OP_LENCHK is two writes; a DECODE of driven lanes completes at every length and shows the same two values; a
short one, whose lanes are not read, is the failure output. -/
theorem lengthCheckSetsCodeAndCount : Obligations.LengthCheckSetsCodeAndCount := by
  refine ⟨fun s len _ => ?lenchk, fun s len f _ => ?decode, fun s len l _ hlen => ?short⟩
  case lenchk =>
    rw [exec_opLenchk, lenCode_eq_ite]
    rfl
  case decode =>
    obtain ⟨r, hr⟩ := execDecode_completes (len := len) (.inr (Lanes.driven_levels f)) s.cfg
    have hx := hr s rfl
    have hcode := execDecode_next_lenCode hx
    exact ⟨_, hx, (execDecode_next_response hx).2, fun h => hcode.trans (lenCode_long h),
      fun h => hcode.trans (lenCode_short h)⟩
  case short => exact ⟨_, execDecode_short l s hlen, rfl, rfl, rfl, rfl, rfl, rfl, rfl, rfl, rfl, rfl⟩

/-- Settles O7: each of the three operations is one write of its byte, and a long DECODE of driven lanes latches the record of
its frame, whatever the bytes. -/
theorem verbatimBytesPassThrough : Obligations.VerbatimBytesPassThrough := by
  constructor
  · intro s x _
    exact ⟨exec_opPreamble x s, exec_opStatus x s, exec_opCrc x s⟩
  · intro s len f _ hlen
    exact ⟨_, execDecode_long f s hlen, rfl, rfl, rfl, rfl⟩

/-! ### The 16-bit pairs -/

/-- OP_TEMP stores the raw pair: the sign extension is how the pattern is read, not what is stored (R125). -/
theorem exec_opTemp_eq_le16 (lo hi : Byte) (s : State) : exec (.opTemp lo hi) s = .next (s.setResTemp (le16 lo hi)) := by
  rw [exec_opTemp, ofInt_tempCode]

/-- Settles O8: the stored pattern is the raw pair, and the sign extender reads it as two's complement. -/
theorem temperatureIsSignExtendedPair : Obligations.TemperatureIsSignExtendedPair := by
  intro s lo hi _
  have hsign := (sext16_eq_toInt (le16 lo hi)).symm
  rw [sext16] at hsign
  exact ⟨le16 lo hi, exec_opTemp_eq_le16 lo hi s, le16_toNat lo hi, hsign, (le16 lo hi).le_toInt,
    Int.le_of_lt_add_one (le16 lo hi).toInt_lt⟩

/-- Settles O9: the register holds the unsigned pair, which its 16 bits do not cut. -/
theorem humidityIsUnsignedPair : Obligations.HumidityIsUnsignedPair := by
  intro s lo hi _
  exact ⟨_, exec_opHum lo hi s, humCode_toNat lo hi⟩

/-- Settles O10: the register holds the pair plus its offset, which 18 bits do not cut, and the pair is below `2^16`. -/
theorem pressureIsPairPlusOffset : Obligations.PressureIsPairPlusOffset := by
  intro s lo hi _
  have hsum := pressCode_toNat lo hi
  have hpair := pairValue_lt lo hi
  exact ⟨_, exec_opPress lo hi s, hsum, by omega, by omega⟩

end Sys2Proof.Machine

/-! PROOF. The battery operations of spec/42_battery.md: what each writes, the percentage in every mode of R156, its tie inputs,
and the document's expressions in binary64. -/

namespace Sys2Proof.Machine

/-! ### The voltage and the exact percentage -/

/-- Settles O11: the register holds the code of the voltage, which its 9 bits do not cut. -/
theorem voltageIsBytePlusOffset : Obligations.VoltageIsBytePlusOffset := by
  intro s v _
  exact ⟨_, exec_opVbat v s, vbatCode_toNat v, by rw [vbatCode_toNat]; exact vbatCode_bounds v⟩

/-- Settles O14: the integer form is the exact formula at every code, those of the bytes among them. -/
theorem integerFormEqualsFormula : Obligations.IntegerFormEqualsFormula :=
  fun V _ _ => (battPctExact_eq_battPctInt V).symm

/-- Settles O12: OP_BATTPCT stores the mode's percentage, under EXACT the integer form's, which is the exact formula's. -/
theorem percentageIsTheFormula : Obligations.PercentageIsTheFormula := by
  intro s v _ hmode
  refine ⟨_, exec_opBattpct v s, ?_⟩
  rw [battPct_toNat, hmode]
  exact (battPctExact_eq_battPctInt (vbatCode v)).symm

/-- The integer form as a formula in the byte (R158). -/
theorem battPctInt_vbatCode (v : Byte) : battPctInt (vbatCode v) =
    if v.toNat ≤ 50 then 0 else if v.toNat ≤ 210 then (5 * (v.toNat - 50) + 4) / 8 else 100 := by
  rw [battPctInt_eq, vbatCode]
  split_ifs <;> omega

/-- Settles O17: the three rows of R158, and the middle row at its two ends. -/
theorem percentageClosedForm : Obligations.PercentageClosedForm := by
  intro v
  rw [battPct, battPctInt_vbatCode]
  split_ifs <;> omega

/-! ### The tie inputs -/

theorem isTie_iff (v : Byte) : isTie v = true ↔ ∃ k : Nat, k ≤ 19 ∧ v.toNat = 54 + 8 * k := by
  simp only [isTie, Bool.and_eq_true, decide_eq_true_eq, beq_iff_eq]
  constructor
  · intro h
    exact ⟨(v.toNat - 54) / 8, by omega⟩
  · rintro ⟨k, hk, hv⟩
    omega

/-- The exact percentage of a byte, in eighths. -/
theorem exactPercentage_vbatCode (v : Byte) :
    exactPercentage (vbatCode v) = ((5 * ((min v.toNat 210 : Nat) - 50) : Int) : ℚ) / 8 := by
  have hclamp : ((min (vbatCode v) 410 : Nat) : Int) - 250 = (min v.toNat 210 : Nat) - 50 := by
    rw [vbatCode]
    omega
  rw [exactPercentage_eq, hclamp]

theorem exactPercentage_pos_iff (v : Byte) : 0 < exactPercentage (vbatCode v) ↔ 50 < v.toNat := by
  rw [exactPercentage_vbatCode, div_pos_iff_of_pos_right (by norm_num), Int.cast_pos]
  omega

theorem exactPercentage_neg_iff (v : Byte) : exactPercentage (vbatCode v) < 0 ↔ v.toNat < 50 := by
  rw [exactPercentage_vbatCode, div_lt_iff₀ (by norm_num), zero_mul, Int.cast_lt_zero]
  omega

/-- `5d` eighths are halfway between two integers where `d` is 4 modulo 8 (R155), `d` being the clamped byte less 50. -/
theorem halfway_iff (v : Byte) : halfway v ↔ min v.toNat 210 % 8 = 6 := by
  have heighths (k : Int) : exactPercentage (vbatCode v) = k + 1 / 2 ↔
      (5 * ((min v.toNat 210 : Nat) - 50) : Int) = 8 * k + 4 := by
    rw [exactPercentage_vbatCode, div_eq_iff (by norm_num), ← Int.cast_inj (α := ℚ)]
    push_cast
    ring_nf
  simp only [halfway, heighths]
  constructor
  · rintro ⟨k, hk⟩
    omega
  · intro h
    exact ⟨(5 * ((min v.toNat 210 : Nat) - 50) : Int) / 8, by omega⟩

theorem exactPercentage_at_tie {v : Byte} {k : Nat} (hk : k ≤ 19) (hv : v.toNat = 54 + 8 * k) :
    exactPercentage (vbatCode v) = 5 * k + 5 / 2 := by
  rw [exactPercentage_vbatCode, hv, min_eq_left (by omega)]
  push_cast
  ring

theorem battPctInt_at_tie {v : Byte} {k : Nat} (hk : k ≤ 19) (hv : v.toNat = 54 + 8 * k) :
    battPctInt (vbatCode v) = 5 * k + 3 := by
  rw [battPctInt_tie ((isTie_iff v).mpr ⟨k, hk, hv⟩)]
  omega

/-- Up to byte 50 the exact percentage ends as 0 (R157). -/
theorem battPctExact_of_le {v : Byte} (h : v.toNat ≤ 50) : battPctExact (vbatCode v) = 0 := by
  rw [battPctExact_eq_battPctInt, battPctInt_vbatCode, if_pos h]
  rfl

/-- Settles O15: halfway is a matter of the byte modulo 8, and its sign of the byte's side of 50. -/
theorem tieInputsAreTheListed : Obligations.TieInputsAreTheListed := by
  refine ⟨fun v => ?positive, isTie_iff, fun v k hk hv => ⟨exactPercentage_at_tie hk hv, ?value⟩,
    fun v => ⟨?negative, fun hv => ?range⟩⟩
  case positive =>
    rw [halfway_iff, exactPercentage_pos_iff]
    simp only [List.mem_cons, List.not_mem_nil, or_false]
    omega
  case value =>
    rw [battPctExact_eq_battPctInt, battPctInt_at_tie hk hv]
    norm_num
  case negative =>
    rw [halfway_iff, exactPercentage_neg_iff]
    simp only [List.mem_cons, List.not_mem_nil, or_false]
    omega
  case range =>
    have hbounds : 6 ≤ v.toNat ∧ v.toNat ≤ 46 := by
      simp only [List.mem_cons, List.not_mem_nil, or_false] at hv
      omega
    have hlo : (6 : ℚ) ≤ v.toNat := by exact_mod_cast hbounds.1
    have hhi : (v.toNat : ℚ) ≤ 46 := by exact_mod_cast hbounds.2
    rw [exactPercentage_vbatCode, min_eq_left (by omega)]
    push_cast
    exact ⟨by linarith, by linarith, battPctExact_of_le (by omega)⟩

/-! ### The percentage in every mode -/

theorem battPct_of_not_tie (mode : BattPctMode) {v : Byte} (h : isTie v = false) :
    battPct mode v = battPctInt (vbatCode v) := by
  rcases battPct_cases mode v with hv | ⟨ht, _⟩
  · exact hv
  · simp [h] at ht

theorem battPct_at_tie (mode : BattPctMode) {v : Byte} {k : Nat} (hk : k ≤ 19) (hv : v.toNat = 54 + 8 * k) :
    battPct mode v = 5 * k + 2 ∨ battPct mode v = 5 * k + 3 := by
  have hint := battPctInt_at_tie hk hv
  rcases battPct_cases mode v with h | ⟨_, h⟩ <;> omega

/-- The integer form does not decrease, and it rises at every tie (R157), so that a mode which stays one below it there keeps
the order. -/
theorem battPctInt_order {v w : Byte} (h : v.toNat < w.toNat) :
    battPctInt (vbatCode v) ≤ battPctInt (vbatCode w) ∧
    (isTie w = true → battPctInt (vbatCode v) < battPctInt (vbatCode w)) := by
  rw [isTie_iff, battPctInt_vbatCode, battPctInt_vbatCode]
  constructor
  · split_ifs <;> omega
  · rintro ⟨k, hk, hw⟩
    split_ifs <;> omega

theorem battPct_mono (mode : BattPctMode) {v w : Byte} (h : v.toNat ≤ w.toNat) : battPct mode v ≤ battPct mode w := by
  rcases Nat.eq_or_lt_of_le h with heq | hlt
  · rw [BitVec.eq_of_toNat_eq heq]
  · obtain ⟨hle, htie⟩ := battPctInt_order hlt
    have hv : battPct mode v ≤ battPctInt (vbatCode v) := by
      rcases battPct_cases mode v with h | ⟨_, h⟩ <;> omega
    rcases battPct_cases mode w with hw | ⟨ht, hw⟩
    · omega
    · have := htie ht
      omega

/-- No byte of either clamp is a tie input (R155). -/
theorem isTie_of_clamped {v : Byte} (h : v.toNat ≤ 50 ∨ 210 ≤ v.toNat) : isTie v = false := by
  rw [← Bool.not_eq_true, isTie_iff]
  omega

theorem battPct_of_le (mode : BattPctMode) {v : Byte} (h : v.toNat ≤ 50) : battPct mode v = 0 := by
  rw [battPct_of_not_tie mode (isTie_of_clamped (.inl h)), battPctInt_vbatCode, if_pos h]

theorem battPct_of_ge (mode : BattPctMode) {v : Byte} (h : 210 ≤ v.toNat) : battPct mode v = 100 := by
  rw [battPct_of_not_tie mode (isTie_of_clamped (.inr h)), battPctInt_vbatCode]
  split_ifs <;> omega

/-- Settles O16: the bound and the two clamps of each mode, and its order. -/
theorem percentageBoundsAndOrder : Obligations.PercentageBoundsAndOrder := fun mode =>
  ⟨fun v => ⟨battPct_le mode v, Nat.lt_of_le_of_lt (battPct_le mode v) (by decide)⟩, fun _ => battPct_of_ge mode,
    fun _ => battPct_of_le mode, fun _ _ => battPct_mono mode⟩

/-! ### The expressions in binary64

Binary64 is given by its evaluator alone, and R156 found the deviations by evaluating it: below the clamp so does this file, byte
by byte. From the clamp on, the forms no longer depend on the byte. -/

/-- The binary64 clamp takes effect at the bytes where the integer one does (R159). -/
theorem clamped64_of_ge {v : Byte} (h : 210 ≤ v.toNat) : clamped64 v = lit41 := by
  revert v
  decide

/-- From the clamp on, each form has the one value it has at 4.1 V. -/
theorem binary64Forms_of_ge {v : Byte} (h : 210 ≤ v.toNat) :
    docPct64 v = 100 ∧ examplePct64 v = 100 ∧ reorderedPct64 v = 100 := by
  simp only [docPct64, examplePct64, reorderedPct64, clamped64_of_ge h]
  decide

/-- Below the clamp, evaluated byte by byte, in one lemma as the three forms share their clamped voltage. -/
theorem binary64Forms_deviate_of_lt : ∀ v : Byte, v.toNat < 210 →
    (docPct64 v ≠ battPctInt (vbatCode v) ↔ v.toNat ∈ [78, 86]) ∧
    (examplePct64 v ≠ battPctInt (vbatCode v) ↔ v.toNat ∈ [78, 86, 94, 126, 134, 142, 182, 190, 206]) ∧
    (reorderedPct64 v ≠ battPctInt (vbatCode v) ↔ v.toNat ∈ [78, 86, 126]) := by
  decide

/-- Settles O18: below the clamp by evaluation; from it on each form gives 100, as the integer form does. -/
theorem binaryFormsDeviateAsListed : Obligations.BinaryFormsDeviateAsListed := by
  intro v
  rcases Nat.lt_or_ge v.toNat 210 with h | h
  · exact binary64Forms_deviate_of_lt v h
  · obtain ⟨hdoc, hexample, hreordered⟩ := binary64Forms_of_ge h
    have hint : battPctInt (vbatCode v) = 100 := battPct_of_ge .exactForm h
    rw [hdoc, hexample, hreordered, hint]
    simp only [List.mem_cons, List.not_mem_nil, or_false]
    omega

theorem docPct64_eq_battPctInt_iff (v : Byte) : docPct64 v = battPctInt (vbatCode v) ↔ v ≠ 78 ∧ v ≠ 86 := by
  rw [← not_iff_not, ← ne_eq, (binaryFormsDeviateAsListed v).1]
  simp only [List.mem_cons, List.not_mem_nil, or_false, ne_eq, not_and_or, not_not, BitVec.toNat_eq]
  rfl

/-- Under DOC_BINARY64 the machine gives what the document's expression gives in binary64 (R156). -/
theorem battPct_docBinary64 (v : Byte) : battPct .docBinary64 v = docPct64 v := by
  by_cases h : v = 78 ∨ v = 86
  · rcases h with rfl | rfl <;> decide
  · obtain ⟨h78, h86⟩ := not_or.mp h
    rw [battPct, if_neg h78, if_neg h86, (docPct64_eq_battPctInt_iff v).mpr ⟨h78, h86⟩]

/-- Settles O13: the register holds the mode's percentage uncut, and each clause is what that mode's percentage is. -/
theorem percentageInEachMode : Obligations.PercentageInEachMode := by
  intro s v _
  refine ⟨_, exec_opBattpct v s, ?_⟩
  rw [battPct_toNat]
  generalize s.cfg.battPctMode = mode
  refine ⟨battPct_of_not_tie mode, ?exactForm, ?docBinary64, fun _ k hk hv => battPct_at_tie mode hk hv⟩
  case exactForm => rintro rfl; rfl
  case docBinary64 =>
    rintro rfl
    refine ⟨battPct_docBinary64 v, ?_, ?_, ?_⟩
    · rw [battPct_docBinary64]
      exact docPct64_eq_battPctInt_iff v
    · rintro rfl; rfl
    · rintro rfl; rfl

end Sys2Proof.Machine

/-! PROOF. The one exception of spec/60_exceptions.md: the failure output of a short request, as a whole next state. -/

namespace Sys2Proof.Machine

/-- Settles O4: a short request raises InsufficientInput whatever its lanes carry (R61), and the failure record, put in place of
the whole register file, is the listed one (R172). -/
theorem shortRequestFailsWholly : Obligations.ShortRequestFailsWholly :=
  fun s _ l _ hlen => execDecode_short l s hlen

end Sys2Proof.Machine

/-! PROOF. The reset state, the machine at reset and power-up, and the edges with an undefined input (spec/70_reset_and_hazards.md). -/

namespace Sys2Proof

/-! ### Undefined inputs -/

/-- An edge that has an operation has every input that selects and feeds it defined (R198). -/
theorem decodeEdge_ok_defined {c : Config} {e : Edge} {i : Instr} (h : decodeEdge c e = .ok i) {p : InPort}
    (hp : e.reads p) : e.defined p := by
  rcases decodeEdge_ok h with ⟨hr, _⟩ | ⟨hr, hv, _⟩ | ⟨len, he, _, _, hl⟩
  · cases p <;> simp [Edge.reads, Edge.defined, hr] at hp ⊢
  · cases p <;> simp [Edge.reads, Edge.defined, hr, hv] at hp ⊢
  · rw [he] at hp ⊢
    cases p with
    | reqFrame =>
      obtain ⟨_, _, n, hn, hten⟩ := hp
      cases hn
      exact hl.resolve_left (Nat.not_lt.mpr hten)
    | _ => rfl

/-- A request of ten bytes or more with an undriven lane has no operation (R198). -/
theorem decodeEdge_request_undriven {c : Config} {len : Nat} {l : LaneLevels} (hn : len < 2 ^ c.lenW) (hten : 10 ≤ len)
    (hl : l.driven = false) : decodeEdge c (requestEdge len l) = .error (.undefinedInput .reqFrame) := by
  simp [decodeEdge, requestEdge, Nat.not_le.mpr hn, Nat.not_lt.mpr hten, hl]

/-- All that the decoder can refuse: a length too wide for its wires, or an input that is read and undefined (R198). -/
theorem decodeEdge_error {c : Config} {e : Edge} {r : EdgeError} (h : decodeEdge c e = .error r) :
    (∃ n, e.reqLen = some n ∧ 2 ^ c.lenW ≤ n) ∨ ∃ p, r = .undefinedInput p ∧ e.reads p ∧ ¬ e.defined p := by
  obtain ⟨rst, valid, len, lanes⟩ := e
  match rst, valid, len with
  | none, _, _ =>
    cases h
    exact .inr ⟨.rst, rfl, trivial, nofun⟩
  | some true, _, _ => cases h
  | some false, none, _ =>
    cases h
    exact .inr ⟨.reqValid, rfl, rfl, nofun⟩
  | some false, some false, _ => cases h
  | some false, some true, none =>
    cases h
    exact .inr ⟨.reqLen, rfl, ⟨rfl, rfl⟩, nofun⟩
  | some false, some true, some n =>
    rcases Nat.lt_or_ge n (2 ^ c.lenW) with hn | hwide
    · by_cases hl : n < 10 ∨ lanes.driven = true
      · cases (decodeEdge_request hn hl).symm.trans h
      · obtain ⟨hshort, hundriven⟩ := not_or.mp hl
        have hten := Nat.not_lt.mp hshort
        cases (decodeEdge_request_undriven hn hten (Bool.eq_false_iff.mpr hundriven)).symm.trans h
        exact .inr ⟨.reqFrame, rfl, ⟨rfl, rfl, n, rfl, hten⟩, hundriven⟩
    · exact .inl ⟨n, rfl, hwide⟩

end Sys2Proof

namespace Sys2Proof.Machine

/-- Settles O28, by the decoder's answer: an operation means that every input read is defined, and it completes; an error,
where the length fits, names an input that is read and undefined. -/
theorem edgesCompleteExactlyWhenDefined : Obligations.EdgesCompleteExactlyWhenDefined := by
  intro s hlen
  rcases hd : decodeEdge s.cfg s.sample with r | i
  · rcases decodeEdge_error hd with ⟨n, hn, hwide⟩ | ⟨p, rfl, hread, hundef⟩
    · exact absurd (hlen n hn) (Nat.not_lt.mpr hwide)
    · exact ⟨fun hdef => absurd (hdef p hread) hundef, fun _ => ⟨p, hread, hundef, step_of_decodeEdge_error hd⟩⟩
  · exact ⟨fun _ => step_completes_of_decodeEdge hd, fun hundef => absurd (fun _ => decodeEdge_ok_defined hd) hundef⟩

/-- Settles O25: of the three ways a DECODE can go, the failure output needs a shorter length and the record driven lanes. -/
theorem decodeRefusesUndefinedLanes : Obligations.DecodeRefusesUndefinedLanes := by
  intro s len l hlen hundriven
  rcases execDecode_cases len l s with ⟨hshort, _⟩ | ⟨_, f, rfl, _⟩ | ⟨_, _, he⟩
  · exact absurd hlen (Nat.not_le.mpr hshort)
  · exact absurd (Lanes.driven_levels f) (Bool.eq_false_iff.mp hundriven)
  · exact he

/-! ### Reset and power-up -/

theorem State.reset_regs : State.reset.regs = resetRegs := rfl

/-- The state the model starts from and the state after any RESET edge hold the same registers, with the edge on record. -/
theorem regs_after_reset {t : State} (h : t = State.reset ∨ ∃ s : State, exec .reset s = .next t) :
    t.regs = resetRegs ∧ t.resetSeen = true := by
  rcases h with rfl | ⟨s, hs⟩
  · exact ⟨State.reset_regs, rfl⟩
  · cases hs
    exact ⟨s.doReset_regs, s.doReset_resetSeen⟩

/-- Settles O2: the registers are R191's, and their code NONE says that no result register holds a measurement. -/
theorem resetValuesAsListed : Obligations.ResetValuesAsListed := by
  intro t ht
  obtain ⟨hregs, hseen⟩ := regs_after_reset ht
  have hnone : t.regs.rspCode = codeNone := by rw [hregs]; rfl
  have hread (p : OutPort) (hp : p.isResult = true) : hostRead t p = .error .noMeasurement :=
    hostRead_noMeasurement hp hseen (.inl hnone)
  rw [hregs]
  exact ⟨rfl, rfl, rfl, rfl, rfl, rfl, rfl, rfl, rfl, rfl, rfl, rfl, rfl, hread⟩

/-- Settles O36: the reset registers are legal, and before the first RESET edge the invariant asks nothing of the registers but
the width of `RSP_LEN`. -/
theorem invariantHoldsAtResetAndPowerUp : Obligations.InvariantHoldsAtResetAndPowerUp := by
  constructor
  · exact ⟨by decide, by decide, fun _ => resetRegs_legal _⟩
  · exact fun c contents program hcfg hlen => ⟨hcfg, hlen, nofun⟩

end Sys2Proof.Machine
